-- ==== Sys2Proof/Word.lean ====
section
/-! DEFINITION. The words of the block and the type of binary64 values (spec/00_scope.md R12, R14). -/

namespace Sys2Proof

/-- A byte on the bus. -/
abbrev Byte := BitVec 8

/-- A command word, a configuration word or a device register (00_scope.md R10, `REG_WIDTH`). -/
abbrev Word16 := BitVec 16

/-- A 7-bit device address (20_memory.md R81). -/
abbrev DevAddr := BitVec 7

/-- A 7-bit bus number (30_encoding.md R110). -/
abbrev BusId := BitVec 7

/-- An IEEE 754 binary64 value (00_scope.md R14). `finite neg sig exp` denotes `±sig · 2^exp`; the operations of
Machine/Binary64.lean answer the canonical form, in which a normal value has `2^52 ≤ sig < 2^53`, and zeros and
subnormals have `exp = -1074`. NaN payloads are not kept: no rule reads one. -/
inductive Binary64 where
  | finite (neg : Bool) (sig : Nat) (exp : Int)
  | inf (neg : Bool)
  | nan
  deriving DecidableEq, Repr, Inhabited

end Sys2Proof
end

