-- ==== Sys2Proof/Config.lean ====
section
/-! DEFINITION. The implementation parameters of spec/00_scope.md R10 and the free values of the environment. The gain
and channel tables stand in Machine/Operands.lean. -/

namespace Sys2Proof.Config

/-- `RESULT_BITS`. -/
def resultBits : Nat := 12

/-- `REG_CONVERSION`, the pointer of the Conversion Register (10_state.md R45). -/
def regConversion : BitVec 2 := 0b00#2

/-- `REG_CONFIG`, the pointer of the Configuration Register (10_state.md R46). -/
def regConfig : BitVec 2 := 0b01#2

/-- `FIXED_LOW_BYTE` (10_state.md R47). -/
def fixedLowByte : Byte := 0x03#8

/-- `START_BIT`, the position of the start-conversion bit in the configuration word (10_state.md R49). -/
def startBit : Nat := 15

/-- `MODE_BIT`, the position of the single-shot bit in the configuration word (10_state.md R49). -/
def modeBit : Nat := 8

/-- `CONV_DELAY`, in units of `TIME_UNIT` (10_state.md R48). -/
def convDelay : Nat := 100

/-- The unit that `CONV_DELAY` counts. -/
inductive TimeUnit where
  | millisecond
  deriving DecidableEq, Repr

/-- `TIME_UNIT` (00_scope.md R10, the default of decision D9). No rule depends on it. -/
def timeUnit : TimeUnit := .millisecond

/-- `DEFAULT_BUS` (20_memory.md R81). -/
def defaultBus : BusId := 1#7

/-- `DEFAULT_ADDR` (20_memory.md R81). -/
def defaultAddr : DevAddr := 0x48#7

/-- FREE VALUE: what the Configuration Register of the device holds where the spec leaves it unspecified
(10_state.md R57, 20_memory.md R85, treatments U4 and U5 "any value"). Log entry 2. -/
opaque unspecifiedDevCfg : Nat → Word16

/-- FREE VALUE: the device's register pointer where the spec leaves it unspecified. Log entry 2. -/
opaque unspecifiedDevPtr : Nat → BitVec 2

/-- FREE VALUE: whether a conversion is in flight where the spec leaves it unspecified. Log entry 2. -/
opaque unspecifiedDevPending : Nat → Bool

end Sys2Proof.Config
end

