-- ==== Sys2Proof/Syntax.lean ====
section
/-! DEFINITION. The eleven operations of the block (spec/30_encoding.md R123, spec/opcode_table.json), their operands,
the words and frames that carry them, and the names under which a word is rejected. -/

namespace Sys2Proof

/-- The six channels (10_state.md R51), in the order of their index. -/
inductive Channel where
  | zero
  | one
  | two
  | three
  | diff01
  | diff23
  deriving DecidableEq, Repr

/-- The six gains (10_state.md R50), in the order of their index. -/
inductive Gain where
  | twoThirds
  | one
  | two
  | four
  | eight
  | sixteen
  deriving DecidableEq, Repr

/-- The opaque handle that the transport answers `open` with (00_scope.md R10, 10_state.md R33). The block only passes
it back; `token` tells two handles apart and means nothing else (treatment U17). -/
structure BusHandle where
  token : Nat
  deriving DecidableEq, Repr

/-- The operations of the block, one constructor for each row of the opcode table. -/
inductive Instr where
  /-- MEASURE, host command (42_conversion_sequencer.md R180). -/
  | measure (chan : Channel) (gain : Gain)
  /-- INIT, host command (44_initialization.md R260). -/
  | init (bus : BusId) (addr : DevAddr)
  /-- CANCEL, host command (42_conversion_sequencer.md R195). -/
  | cancel
  /-- ENCODE, combinational (41_configuration_encoder.md R160). -/
  | encode (chan : Channel) (gain : Gain)
  /-- DECODE, combinational; the gain is the latched one (43_sample_decoder.md R230). -/
  | decode (b0 b1 : Byte)
  /-- CFG_WRITE, bus micro-operation (42_conversion_sequencer.md R182). -/
  | cfgWrite (chan : Channel) (gain : Gain)
  /-- WAIT, the timed suspension of the state CONVERTING (42_conversion_sequencer.md R184). -/
  | wait
  /-- PTR_SELECT, bus micro-operation (42_conversion_sequencer.md R188). -/
  | ptrSelect
  /-- RESULT_READ, bus micro-operation (42_conversion_sequencer.md R191). -/
  | resultRead
  /-- BUS_OPEN, transport micro-operation (44_initialization.md R265). -/
  | busOpen (bus : BusId)
  /-- BUS_SCAN, transport micro-operation (44_initialization.md R266). -/
  | busScan (handle : BusHandle)
  deriving DecidableEq, Repr

/-- How an operation that is no host command is spelled inside the block: the word, frame or call the opcode table gives
its row. -/
inductive InternalWord where
  /-- Format F-CFG, the configuration word (30_encoding.md R111). -/
  | cfg (w : Word16)
  /-- Format F-CONV, b0 in bits 15:8 and b1 in bits 7:0 (30_encoding.md R112). -/
  | conv (w : Word16)
  /-- The bytes of a BusWrite to the bound address, first byte first: F-W3 or F-W1 (30_encoding.md R113, R114). -/
  | frame (bytes : List Byte)
  /-- A BusRead of `n` bytes: F-R2 (30_encoding.md R115). -/
  | read (n : Nat)
  /-- The timer port; no frame (42_conversion_sequencer.md R184). -/
  | timer
  /-- The transport call `open`; no frame (44_initialization.md R265). -/
  | openCall (bus : BusId)
  /-- The transport call `scan`; no frame (44_initialization.md R266). -/
  | scanCall (handle : BusHandle)
  deriving DecidableEq, Repr

/-- A spelled operation: a command word of the host request port, or an internal word. -/
inductive OpWord where
  /-- Format F-CMD (30_encoding.md R110). -/
  | cmd (w : Word16)
  | internal (m : InternalWord)
  deriving DecidableEq, Repr

/-- Why a word spells no operation. -/
inductive Reject where
  /-- F-CMD with `op = 0b11` (30_encoding.md R124). -/
  | reservedOp
  /-- MEASURE bits 15:8 or CANCEL bits 15:2 not zero (30_encoding.md R126). -/
  | reservedBits
  /-- MEASURE with a channel index of 6 or 7 (30_encoding.md R125). -/
  | channelIndex (i : BitVec 3)
  /-- MEASURE with a gain index of 6 or 7 (30_encoding.md R125). -/
  | gainIndex (i : BitVec 3)
  /-- A configuration word whose bits 15, 8 or 7:0 are not the constants of F-CFG (30_encoding.md R127). -/
  | cfgFixedBits
  /-- A configuration word whose `mux` is no channel's (30_encoding.md R127). -/
  | muxNotEmitted (m : BitVec 3)
  /-- A configuration word whose `pga` is no gain's (30_encoding.md R127). -/
  | pgaNotEmitted (p : BitVec 3)
  /-- A frame whose pointer byte is not the one of its length (30_encoding.md R129, 20_memory.md R83). -/
  | pointerNotEmitted (p : Byte)
  /-- A write frame of another length than 1 or 3 (30_encoding.md R130). -/
  | frameLength (n : Nat)
  /-- A read of another length than 2 (30_encoding.md R130). -/
  | readLength (n : Nat)
  deriving DecidableEq, Repr

/-- One line of the assembly syntax (30_encoding.md R131), with the pseudo-instructions (R132). -/
inductive AsmLine where
  | measure (chan : Channel) (gain : Gain)
  | init (bus : BusId) (addr : DevAddr)
  /-- `INIT` with no operands. -/
  | initDefault
  /-- `INIT <bus>`. -/
  | initBus (bus : BusId)
  | cancel
  deriving DecidableEq, Repr

end Sys2Proof
end

