-- ==== Sys2Proof/Machine/Operands.lean ====
section
/-! DEFINITION. Operand forms: the gain and channel tables (spec/10_state.md R50, R51), the fields of the command word,
the configuration word and the frames, and the numbers of the response and step codes' operands. -/

namespace Sys2Proof

/-- `v[hi:lo]` of a 16-bit word, as a field of `len` bits from bit `lo` up (00_scope.md R12). -/
def bits (w : Word16) (lo len : Nat) : BitVec len := w.extractLsb' lo len

/-- The high byte of a 16-bit word. -/
def highByte (w : Word16) : Byte := w.extractLsb' 8 8

/-- The low byte of a 16-bit word. -/
def lowByte (w : Word16) : Byte := w.extractLsb' 0 8

/-- The channel's index in a command word (10_state.md R51). -/
def Channel.index : Channel → BitVec 3
  | .zero => 0#3
  | .one => 1#3
  | .two => 2#3
  | .three => 3#3
  | .diff01 => 4#3
  | .diff23 => 5#3

/-- The channel of an index; 6 and 7 are none's (30_encoding.md R125). -/
def Channel.ofIndex (i : BitVec 3) : Option Channel :=
  match i.toNat with
  | 0 => some .zero
  | 1 => some .one
  | 2 => some .two
  | 3 => some .three
  | 4 => some .diff01
  | 5 => some .diff23
  | _ => none

/-- `CHANNEL_TABLE[chan].mux`, configuration-word bits 14:12 (10_state.md R51; the spec's default, GK3 and D4). -/
def Channel.mux : Channel → BitVec 3
  | .zero => 0b100#3
  | .one => 0b101#3
  | .two => 0b110#3
  | .three => 0b111#3
  | .diff01 => 0b000#3
  | .diff23 => 0b011#3

/-- The channel whose `mux` code this is; `0b001` and `0b010` are none's (30_encoding.md R127). -/
def Channel.ofMux (m : BitVec 3) : Option Channel :=
  match m.toNat with
  | 0 => some .diff01
  | 3 => some .diff23
  | 4 => some .zero
  | 5 => some .one
  | 6 => some .two
  | 7 => some .three
  | _ => none

/-- The input selected, as the numbers of the analog inputs: the measured one, and the one it is measured against, none
for ground (10_state.md R51; the pairs are the spec's default `DIFF_PAIRS`, D4). -/
def Channel.inputs : Channel → Fin 4 × Option (Fin 4)
  | .zero => (0, none)
  | .one => (1, none)
  | .two => (2, none)
  | .three => (3, none)
  | .diff01 => (0, some 1)
  | .diff23 => (2, some 3)

/-- Single-ended channels measure one input against ground (10_state.md R51). -/
def Channel.singleEnded (c : Channel) : Bool := c.inputs.2.isNone

/-- The gain's index in a command word (10_state.md R50). -/
def Gain.index : Gain → BitVec 3
  | .twoThirds => 0#3
  | .one => 1#3
  | .two => 2#3
  | .four => 3#3
  | .eight => 4#3
  | .sixteen => 5#3

/-- The gain of an index; 6 and 7 are none's (30_encoding.md R125). -/
def Gain.ofIndex (i : BitVec 3) : Option Gain :=
  match i.toNat with
  | 0 => some .twoThirds
  | 1 => some .one
  | 2 => some .two
  | 3 => some .four
  | 4 => some .eight
  | 5 => some .sixteen
  | _ => none

/-- `GAIN_TABLE[gain].controlBits`, configuration-word bits 11:9 (10_state.md R50; the spec's default, GK2). -/
def Gain.controlBits : Gain → BitVec 3
  | .twoThirds => 0b000#3
  | .one => 0b001#3
  | .two => 0b010#3
  | .four => 0b011#3
  | .eight => 0b100#3
  | .sixteen => 0b101#3

/-- The gain whose control bits these are; `0b110` and `0b111` are none's (30_encoding.md R127). -/
def Gain.ofControlBits (p : BitVec 3) : Option Gain :=
  match p.toNat with
  | 0 => some .twoThirds
  | 1 => some .one
  | 2 => some .two
  | 3 => some .four
  | 4 => some .eight
  | 5 => some .sixteen
  | _ => none

/-- `FS[g]` in millivolts (10_state.md R50). -/
def Gain.fullScaleMillivolts : Gain → Nat
  | .twoThirds => 6144
  | .one => 4096
  | .two => 2048
  | .four => 1024
  | .eight => 512
  | .sixteen => 256

/-- `LSB_UV[g]`, the microvolts of one code step (10_state.md R50, 43_sample_decoder.md R236). -/
def Gain.lsbMicrovolts : Gain → Nat
  | .twoThirds => 3000
  | .one => 2000
  | .two => 1000
  | .four => 500
  | .eight => 250
  | .sixteen => 125

/-- The pointer byte whose value is the register address (20_memory.md R82). -/
def pointerByte (p : BitVec 2) : Byte := p.setWidth 8

/-- The frame F-W3 of a configuration word (30_encoding.md R113). -/
def cfgFrame (cfg : Word16) : List Byte := [pointerByte Config.regConfig, highByte cfg, lowByte cfg]

/-- The frame F-W1 (30_encoding.md R114). -/
def selectFrame : List Byte := [pointerByte Config.regConversion]

/-- The length of the result read (30_encoding.md R115). -/
def resultLength : Nat := 2

end Sys2Proof
end

