-- ==== Sys2Proof/WellFormed.lean ====
section
/-! DEFINITION. Which terms are well-formed: an instruction always (its operand types are closed), a word as the match
and mask columns of spec/opcode_table.json and the closed index ranges say. -/

namespace Sys2Proof

/-- Every instruction is well-formed by its type: "`Channel` and `Gain` are closed enumerations so no invalid input can
be constructed by a well-typed caller" (30_encoding.md R125, 41_configuration_encoder.md R166), and bus numbers and
addresses fill their 7 bits (30_encoding.md R126). -/
def Instr.wellFormed : Instr → Bool
  | .measure _ _ => true
  | .init _ _ => true
  | .cancel => true
  | .encode _ _ => true
  | .decode _ _ => true
  | .cfgWrite _ _ => true
  | .wait => true
  | .ptrSelect => true
  | .resultRead => true
  | .busOpen _ => true
  | .busScan _ => true

/-- The word agrees with `pattern` on the bits of `mask`. -/
def matchesMask (w mask pattern : Word16) : Bool := w &&& mask == pattern

/-- A command word of MEASURE: match `0x0000`, mask `0xFF03`, both indices below 6 (30_encoding.md R110, R125). -/
def isMeasureWord (w : Word16) : Bool :=
  matchesMask w 0xFF03#16 0x0000#16 && decide ((w >>> 2) % 8#16 < 6#16) && decide ((w >>> 5) % 8#16 < 6#16)

/-- A command word of INIT: match `0x0001`, mask `0x0003` (30_encoding.md R110). -/
def isInitWord (w : Word16) : Bool := matchesMask w 0x0003#16 0x0001#16

/-- A command word of CANCEL: match `0x0002`, mask `0xFFFF` (30_encoding.md R110). -/
def isCancelWord (w : Word16) : Bool := matchesMask w 0xFFFF#16 0x0002#16

/-- A configuration word the block can emit: match `0x8103`, mask `0x81FF`, `mux` none of the two unused codes and `pga`
below 6 (30_encoding.md R111, R127). -/
def isCfgWord (w : Word16) : Bool :=
  matchesMask w 0x81FF#16 0x8103#16 && (w >>> 12) % 8#16 != 1#16 && (w >>> 12) % 8#16 != 2#16 &&
    decide ((w >>> 9) % 8#16 < 6#16)

/-- The write frames of the block: F-W3 with a configuration word, or F-W1 (30_encoding.md R113, R114). -/
def isWriteFrame : List Byte → Bool
  | [p] => p == 0x00#8
  | [p, hi, lo] => p == 0x01#8 && isCfgWord (hi ++ lo)
  | _ => false

def InternalWord.wellFormed : InternalWord → Bool
  | .cfg w => isCfgWord w
  | .conv _ => true
  | .frame bytes => isWriteFrame bytes
  | .read n => n == 2
  | .timer => true
  | .openCall _ => true
  | .scanCall _ => true

def OpWord.wellFormed : OpWord → Bool
  | .cmd w => isMeasureWord w || isInitWord w || isCancelWord w
  | .internal m => m.wellFormed

end Sys2Proof
end

