-- ==== Sys2Proof/Decode.lean ====
section
/-! DEFINITION. The decoder, total on every word and frame and rejecting by name (spec/30_encoding.md R110..R130), the
encoder from the same tables, the numbering of spec/opcode_table.json, and the assembly syntax (R131, R132). -/

namespace Sys2Proof

/-- MEASURE's operands (R120) behind its reserved bits (R126) and closed indices (R125). -/
def decodeMeasure (w : Word16) : Except Reject Instr :=
  if bits w 8 8 ≠ 0#8 then .error .reservedBits
  else
    match Channel.ofIndex (bits w 2 3), Gain.ofIndex (bits w 5 3) with
    | some c, some g => .ok (.measure c g)
    | none, _ => .error (.channelIndex (bits w 2 3))
    | some _, none => .error (.gainIndex (bits w 5 3))

/-- F-CMD: `op` first, then the reserved bits of its row (30_encoding.md R110, R120, R123..R126). -/
def decodeCmd (w : Word16) : Except Reject Instr :=
  match (bits w 0 2).toNat with
  | 0 => decodeMeasure w
  | 1 => .ok (.init (bits w 9 7) (bits w 2 7))
  | 2 => if bits w 2 14 ≠ 0#14 then .error .reservedBits else .ok .cancel
  | _ => .error .reservedOp

/-- The channel and gain of a configuration word F-CFG (30_encoding.md R111, R127). -/
def decodeCfg (w : Word16) : Except Reject (Channel × Gain) :=
  if bits w 15 1 ≠ 1#1 ∨ bits w 8 1 ≠ 1#1 ∨ bits w 0 8 ≠ Config.fixedLowByte then .error .cfgFixedBits
  else
    match Channel.ofMux (bits w 12 3), Gain.ofControlBits (bits w 9 3) with
    | some c, some g => .ok (c, g)
    | none, _ => .error (.muxNotEmitted (bits w 12 3))
    | some _, none => .error (.pgaNotEmitted (bits w 9 3))

/-- The write frames: F-W1 is PTR_SELECT, F-W3 is CFG_WRITE; the length tells them apart (30_encoding.md R113, R114,
R130). -/
def decodeFrame : List Byte → Except Reject Instr
  | [p] => if p = pointerByte Config.regConversion then .ok .ptrSelect else .error (.pointerNotEmitted p)
  | [p, hi, lo] =>
    if p = pointerByte Config.regConfig then
      match decodeCfg (hi ++ lo) with
      | .ok (c, g) => .ok (.cfgWrite c g)
      | .error r => .error r
    else .error (.pointerNotEmitted p)
  | bytes => .error (.frameLength bytes.length)

/-- The operation that an internal word spells. -/
def decodeInternal : InternalWord → Except Reject Instr
  | .cfg w =>
    match decodeCfg w with
    | .ok (c, g) => .ok (.encode c g)
    | .error r => .error r
  | .conv w => .ok (.decode (highByte w) (lowByte w))
  | .frame bytes => decodeFrame bytes
  | .read n => if n = resultLength then .ok .resultRead else .error (.readLength n)
  | .timer => .ok .wait
  | .openCall bus => .ok (.busOpen bus)
  | .scanCall h => .ok (.busScan h)

/-- The decoder. -/
def decode : OpWord → Except Reject Instr
  | .cmd w => decodeCmd w
  | .internal m => decodeInternal m

/-! ### The encoder -/

/-- F-CMD of a MEASURE: `00000000gggccc00` (30_encoding.md R110). -/
def measureWord (c : Channel) (g : Gain) : Word16 := 0#8 ++ g.index ++ c.index ++ 0b00#2

/-- F-CMD of an INIT: `bbbbbbbaaaaaaa01` (30_encoding.md R110). -/
def initWord (bus : BusId) (addr : DevAddr) : Word16 := bus ++ addr ++ 0b01#2

/-- F-CMD of CANCEL (30_encoding.md R110). -/
def cancelWord : Word16 := 0b0000000000000010#16

/-- F-CFG as its encoding string lays it out: `1mmmppp100000011` (30_encoding.md R111). -/
def cfgWord (c : Channel) (g : Gain) : Word16 := 1#1 ++ c.mux ++ g.controlBits ++ 1#1 ++ Config.fixedLowByte

/-- The word, frame or call that spells an instruction. -/
def encode : Instr → OpWord
  | .measure c g => .cmd (measureWord c g)
  | .init bus addr => .cmd (initWord bus addr)
  | .cancel => .cmd cancelWord
  | .encode c g => .internal (.cfg (cfgWord c g))
  | .decode b0 b1 => .internal (.conv (b0 ++ b1))
  | .cfgWrite c g => .internal (.frame (cfgFrame (cfgWord c g)))
  | .wait => .internal .timer
  | .ptrSelect => .internal (.frame selectFrame)
  | .resultRead => .internal (.read resultLength)
  | .busOpen bus => .internal (.openCall bus)
  | .busScan h => .internal (.scanCall h)

/-! ### The numbering of the opcode table -/

/-- The lowest `k` bytes of `w`, the highest of them first: the order in which a frame's bytes go on the bus
(20_memory.md R84, 30_encoding.md R113). -/
def frameBytes : Nat → Nat → List Byte
  | 0, _ => []
  | k + 1, w => BitVec.ofNat 8 (w / 256 ^ k) :: frameBytes k w

/-- Which word of the block a row of `nbits` bits spells. The formats of 16 bits overlap; a command word wins, and only
a word with the reserved `op = 0b11` that fits F-CFG's match and mask is taken as F-CFG. F-CONV and F-R2 fit every word,
and three rows have no bits: of them only WAIT has no operand either (log entry 7). -/
def tableOpWord (nbits w : Nat) : OpWord :=
  match nbits with
  | 0 => .internal .timer
  | 16 =>
    let v : Word16 := BitVec.ofNat 16 w
    if matchesMask v 0x81FF#16 0x8103#16 then .internal (.cfg v) else .cmd v
  | n => .internal (.frame (frameBytes ((n + 7) / 8) w))

/-- The instruction the decoder reads from a word numbered as the opcode table numbers it. -/
def decodeTableWord (nbits w : Nat) : Option Instr :=
  match decode (tableOpWord nbits w) with
  | .ok i => some i
  | .error _ => none

/-! ### The assembly syntax -/

/-- What a line of assembly stands for; the pseudo-instructions take the source's defaults (30_encoding.md R131, R132). -/
def AsmLine.expand : AsmLine → Instr
  | .measure c g => .measure c g
  | .init bus addr => .init bus addr
  | .initDefault => .init Config.defaultBus Config.defaultAddr
  | .initBus bus => .init bus Config.defaultAddr
  | .cancel => .cancel

/-- The command word of a line of assembly. -/
def AsmLine.word (l : AsmLine) : Word16 :=
  match l.expand with
  | .measure c g => measureWord c g
  | .init bus addr => initWord bus addr
  | _ => cancelWord

end Sys2Proof
end

