-- ==== Sys2Proof/Machine/State.lean ====
section
/-! DEFINITION. The state of the block and of its environment (spec/10_state.md R30..R58), the events it consumes, the
actions it puts out (spec/00_scope.md R15, R16), and the ways a step can stop. -/

namespace Sys2Proof.Machine

/-- The sequencer states (10_state.md R36). -/
inductive FsmState where
  | idle
  | opening
  | scanning
  | hold
  | cfgWriting
  | converting
  | selecting
  | reading
  deriving DecidableEq, Repr

/-- The response statuses of 30_encoding.md R117. -/
inductive Status where
  | ok
  | transportError
  | deviceNotFound
  | notInitialized
  | cancelled
  deriving DecidableEq, Repr

/-- The operation whose failure a TRANSPORT_ERROR reports (30_encoding.md R118). -/
inductive ErrStep where
  | none
  | openBus
  | scanBus
  | cfgWrite
  | ptrSelect
  | resultRead
  deriving DecidableEq, Repr

/-- The results of DECODE (43_sample_decoder.md R230). -/
structure Sample where
  raw   : BitVec 12
  code  : BitVec 16
  volts : Binary64
  uv    : BitVec 24
  fs    : Bool
  deriving DecidableEq, Repr

/-- Format F-RSP (30_encoding.md R116). -/
inductive Response where
  | initOk
  | measOk (code : BitVec 16) (volts : Binary64) (uv : BitVec 24) (fs : Bool)
  | err (status : Status) (step : ErrStep)
  deriving DecidableEq, Repr

/-- The output actions of 00_scope.md R16. The last two are the model's own: the result of a combinational operation
that is run alone (log entry 6). -/
inductive Action where
  | busOpen (bus : BusId)
  | busScan (handle : BusHandle)
  | busWrite (handle : BusHandle) (addr : DevAddr) (bytes : List Byte)
  | busRead (handle : BusHandle) (addr : DevAddr) (n : Nat)
  | timerArm (delay : Nat)
  | respond (r : Response)
  | warn (raw : BitVec 12)
  | encoded (cfg : Word16)
  | decoded (sample : Sample)
  deriving DecidableEq, Repr

/-- How a transport operation completes: `ok` with its answer, or `err` (10_state.md R33). -/
inductive Reply (α : Type) where
  | ok (answer : α)
  | err
  deriving DecidableEq, Repr

/-- One choice of the environment. -/
inductive Event where
  /-- The host's turn: the word presented on the request port is offered to the block (10_state.md R31). -/
  | host
  | openDone (r : Reply BusHandle)
  | scanDone (r : Reply (List DevAddr))
  | writeDone (r : Reply Unit)
  | readDone (r : Reply (List Byte))
  | timerExpire
  /-- The reset step (70_reset_and_hazards.md R340). -/
  | reset
  /-- The device's turn: the conversion in flight ends (20_memory.md R87 d). -/
  | conversionEnd
  /-- The model's own: one internal operation is run alone (log entry 5). -/
  | issue (m : InternalWord)
  deriving DecidableEq, Repr

/-- The device-side state of 10_state.md R57. -/
structure Device where
  cfg     : Word16
  ptr     : BitVec 2
  pending : Bool
  deriving DecidableEq, Repr

/-- The device as the spec leaves it unspecified: the `n`-th draw of each free value (log entry 2). -/
def Device.unspecified (n : Nat) : Device where
  cfg := Config.unspecifiedDevCfg n
  ptr := Config.unspecifiedDevPtr n
  pending := Config.unspecifiedDevPending n

/-- The fields of the block that can be unwritten (10_state.md R44). -/
inductive BlockField where
  | hbus
  | haddr
  | iaddr
  | lch
  | lg
  deriving DecidableEq, Repr

/-- What was not enabled. -/
inductive EventKind where
  | openDone
  | scanDone
  | writeDone
  | readDone
  | timerExpire
  | conversionEnd
  | wait
  deriving DecidableEq, Repr

/-- How a run stops because the spec gives no step. -/
inductive Fault where
  /-- The environment offers no event; raised by `step`. A step consumes one (00_scope.md R15). Safe: the block waits. -/
  | noEvent
  /-- The host has its turn and presents nothing; raised by the host's turn. Safe: the block waits. -/
  | noCommand
  /-- An event that has no step in this state, the "stuck" reading of 42_conversion_sequencer.md R197; raised by the
  event handlers, and by WAIT outside CONVERTING. Safe: "it errs toward unprovable". -/
  | notEnabled (k : EventKind) (st : FsmState)
  /-- A read of a field that holds no value (10_state.md R44, "a fault, never a value"); raised by every reader of
  `hbus`, `haddr`, `iaddr`, `lch`, `lg`. Safe: no claim can rest on such a read. -/
  | unwritten (f : BlockField)
  /-- A successful read of another length than 2, for which "the block has no step" (42_conversion_sequencer.md R191);
  raised by the completion of a read. Safe. -/
  | readLength (n : Nat)
  /-- CFG_WRITE run alone where its precondition does not hold (42_conversion_sequencer.md R182); raised by CFG_WRITE.
  Safe: no caller in the block does so. -/
  | cfgWritePrecondition
  deriving DecidableEq, Repr

/-- Why a run is refused. -/
inductive Refusal where
  /-- No meaning yet; raised by `exec` only. Safe. -/
  | notModelled (mnemonic : String)
  /-- A word that spells no operation (30_encoding.md R124..R126, 60_exceptions.md R307); raised by the fetch. Safe: no
  claim about a refused run can be proved. -/
  | reserved (r : Reject)
  deriving DecidableEq, Repr

/-- The state. `none` in the five fields of type Option is the spec's "unwritten" (10_state.md R35, R44). -/
structure State where
  /-- Sequencer state, the analogue of a program counter (10_state.md R36, R38). -/
  st            : FsmState
  /-- DeviceHandle valid (R39). -/
  hv            : Bool
  /-- Opened transport handle (R35). -/
  hbus          : Option BusHandle
  /-- Bound device address (R35). -/
  haddr         : Option DevAddr
  /-- Address being verified during INIT (R35). -/
  iaddr         : Option DevAddr
  /-- Channel of the current measurement (R35). -/
  lch           : Option Channel
  /-- Gain of the current measurement (R35). -/
  lg            : Option Gain
  /-- `conv_pending`: the guard timer is armed (R40). -/
  convPending   : Bool
  /-- `cancel_pending` (R41). -/
  cancelPending : Bool
  /-- Environment: the device (R57). -/
  dev           : Device
  /-- Environment: the command words on the request port, the presented one first (R31). -/
  req           : List Word16
  /-- The model's own: what the environment does next, first event first (log entry 3). -/
  sched         : List Event
  /-- The output actions of all steps, oldest first (00_scope.md R15, 70_reset_and_hazards.md R361). -/
  trace         : List Action
  /-- The model's own: how many draws of the device's free values have been made (log entry 2). -/
  draws         : Nat
  deriving DecidableEq, Repr

/-- The state right after the reset step (10_state.md R35, 70_reset_and_hazards.md R340). -/
def State.reset : State where
  st := .idle
  hv := false
  hbus := none
  haddr := none
  iaddr := none
  lch := none
  lg := none
  convPending := true
  cancelPending := false
  dev := Device.unspecified 0
  req := []
  sched := []
  trace := [.timerArm Config.convDelay]
  draws := 1

/-- The outcome of a step of this machine. -/
abbrev Result := Host.Outcome State Fault Refusal

end Sys2Proof.Machine
end

