-- ==== Sys2Proof/Machine/Ops.lean ====
section
/-! DEFINITION. The named operations over the state: field updates, the output primitives of spec/00_scope.md R16, the
reads of fields that can be unwritten (spec/10_state.md R44), and the error exit, the block's analogue of taking an
exception (spec/60_exceptions.md R302). There is no return from it: the block is in IDLE and takes the next command
(R310). -/

namespace Sys2Proof.Machine

namespace State

def setSt (v : FsmState) (s : State) : State := { s with st := v }
def setHv (v : Bool) (s : State) : State := { s with hv := v }
def setHbus (h : BusHandle) (s : State) : State := { s with hbus := some h }
def setHaddr (a : DevAddr) (s : State) : State := { s with haddr := some a }
def setIaddr (a : DevAddr) (s : State) : State := { s with iaddr := some a }

/-- The channel and gain of a measurement, latched at its acceptance (42_conversion_sequencer.md R180). -/
def latch (c : Channel) (g : Gain) (s : State) : State := { s with lch := some c, lg := some g }

def setConvPending (v : Bool) (s : State) : State := { s with convPending := v }
def setCancelPending (v : Bool) (s : State) : State := { s with cancelPending := v }
def setDev (d : Device) (s : State) : State := { s with dev := d }
def setReq (q : List Word16) (s : State) : State := { s with req := q }
def setSched (q : List Event) (s : State) : State := { s with sched := q }

/-- The device becomes unspecified (20_memory.md R85, 70_reset_and_hazards.md R341): a fresh draw of its free values. -/
def loseDevice (s : State) : State := { s with dev := Device.unspecified s.draws, draws := s.draws + 1 }

/-- Put out one action, after those before it. -/
def emit (a : Action) (s : State) : State := { s with trace := s.trace ++ [a] }

/-- The fields that reset writes, at the values of 10_state.md R35. -/
def resetBlock (s : State) : State :=
  { s with
    st := .idle, hv := false, hbus := none, haddr := none, iaddr := none, lch := none, lg := none,
    convPending := true, cancelPending := false }

end State

/-- A step that reads a field: its value, or the fault of 10_state.md R44. -/
def withField {α : Type} (f : BlockField) (o : Option α) (k : α → Result) : Result :=
  match o with
  | some a => k a
  | none => .fault (.unwritten f)

/-- The same step with its next state changed by `f`. -/
def mapNext (f : State → State) : Result → Result
  | .next s => .next (f s)
  | .fault r => .fault r
  | .refused r => .refused r

/-- `TimerArm(CONV_DELAY)` with its flag (10_state.md R34, R40). -/
def armGuard (s : State) : State := (s.emit (.timerArm Config.convDelay)).setConvPending true

/-- The end of a request by success: the response, and back to IDLE (10_state.md R32). -/
def finish (r : Response) (s : State) : State := (s.emit (.respond r)).setSt .idle

/-- The error exit (60_exceptions.md R302, items 1 to 3). Item 4, the timer after a configuration-write failure, is
`armGuard` before it. -/
def errorExit (status : Status) (step : ErrStep) (s : State) : State :=
  ((s.emit (.respond (.err status step))).setSt .idle).setCancelPending false

/-- A BusWrite of `bytes` to the bound device (20_memory.md R81). -/
def writeToDevice (bytes : List Byte) (s : State) : Result :=
  withField .hbus s.hbus fun h => withField .haddr s.haddr fun a => .next (s.emit (.busWrite h a bytes))

/-- A BusRead of `n` bytes from the bound device. -/
def readFromDevice (n : Nat) (s : State) : Result :=
  withField .hbus s.hbus fun h => withField .haddr s.haddr fun a => .next (s.emit (.busRead h a n))

end Sys2Proof.Machine
end

