-- ==== Sys2Proof/Machine/Initialization.lean ====
section
/-! DEFINITION. Initialization: INIT, BUS_OPEN, BUS_SCAN and the events that complete them
(spec/44_initialization.md), and the reset step (spec/70_reset_and_hazards.md R340, R341). -/

namespace Sys2Proof.Machine

/-- The issue of BUS_OPEN (44_initialization.md R265). -/
def issueBusOpen (bus : BusId) (s : State) : State := s.emit (.busOpen bus)

/-- The issue of BUS_SCAN (44_initialization.md R266). -/
def issueBusScan (h : BusHandle) (s : State) : State := s.emit (.busScan h)

/-- INIT (44_initialization.md R260). Outside IDLE it is not accepted and nothing happens (10_state.md R31). -/
def execInit (bus : BusId) (addr : DevAddr) (s : State) : Result :=
  if s.st ≠ .idle then .next s
  else .next ((issueBusOpen bus ((s.setHv false).setIaddr addr)).setSt .opening)

/-- BUS_OPEN (44_initialization.md R265). -/
def execBusOpen (bus : BusId) (s : State) : Result := .next (issueBusOpen bus s)

/-- BUS_SCAN (44_initialization.md R266). -/
def execBusScan (h : BusHandle) (s : State) : Result := .next (issueBusScan h s)

/-- `OpenDone` (44_initialization.md R261, R262; the device by 20_memory.md R85). -/
def onOpenDone (r : Reply BusHandle) (s : State) : Result :=
  if s.st = .opening then
    match r with
    | .ok h => .next ((issueBusScan h (s.setHbus h)).setSt .scanning)
    | .err => .next (errorExit .transportError .openBus s.loseDevice)
  else .fault (.notEnabled .openDone s.st)

/-- `ScanDone` (44_initialization.md R263, R264; the device by 20_memory.md R85). Only membership in the list counts. -/
def onScanDone (r : Reply (List DevAddr)) (s : State) : Result :=
  if s.st = .scanning then
    match r with
    | .ok present =>
      withField .iaddr s.iaddr fun a =>
        if a ∈ present then .next (finish .initOk ((s.setHaddr a).setHv true))
        else .next (errorExit .deviceNotFound .none s)
    | .err => .next (errorExit .transportError .scanBus s.loseDevice)
  else .fault (.notEnabled .scanDone s.st)

/-- The reset step (70_reset_and_hazards.md R340). The device is not reset, and what it holds is unspecified (R341). -/
def onReset (s : State) : Result := .next ((s.resetBlock.loseDevice).emit (.timerArm Config.convDelay))

end Sys2Proof.Machine
end

