-- ==== Sys2Proof/Machine/Binary64.lean ====
section
/-! DEFINITION. IEEE 754 binary64 arithmetic: round to nearest, ties to even, once per operation (spec/00_scope.md R14,
decision D10). -/

namespace Sys2Proof.Binary64

/-- The exponent of the least subnormal. -/
def minExp : Int := -1074

/-- The exponent of the greatest finite values. -/
def maxExp : Int := 971

/-- The numerator of `num/den · 2^e` in units of `2^E`. -/
def scaledNum (num : Nat) (e E : Int) : Nat := num * 2 ^ (e - E).toNat

/-- The denominator of `num/den · 2^e` in units of `2^E`. -/
def scaledDen (den : Nat) (e E : Int) : Nat := den * 2 ^ (E - e).toNat

/-- The exponent of the unit in the last place for the value `num/den · 2^e`: the one at which the significand has 53
bits, or `minExp` for the values below. -/
def unitExp (num den : Nat) (e : Int) : Int :=
  let E := (Nat.log2 num : Int) - (Nat.log2 den : Int) + e - 52
  let E' := if scaledNum num e E / scaledDen den e E < 2 ^ 52 then E - 1 else E
  max E' minExp

/-- `N/D` rounded to the nearest natural number, ties to even. -/
def roundQuotient (N D : Nat) : Nat :=
  let q := N / D
  let r := N % D
  if D < 2 * r ∨ (D = 2 * r ∧ q % 2 = 1) then q + 1 else q

/-- The binary64 value with this significand and exponent, `sig ≤ 2^53`: a carry out of 53 bits moves the exponent up,
and an exponent above the greatest is an overflow. -/
def pack (neg : Bool) (sig : Nat) (E : Int) : Binary64 :=
  let (sig', E') := if sig = 2 ^ 53 then (2 ^ 52, E + 1) else (sig, E)
  if maxExp < E' then .inf neg else .finite neg sig' E'

/-- The binary64 value nearest to `±num/den · 2^e`, ties to even. -/
def round (neg : Bool) (num den : Nat) (e : Int) : Binary64 :=
  if num = 0 then .finite neg 0 minExp
  else
    let E := unitExp num den e
    pack neg (roundQuotient (scaledNum num e E) (scaledDen den e E)) E

/-- `f64(num/den)` (00_scope.md R14). -/
def ofRatio (num den : Nat) : Binary64 := round false num den 0

/-- `f64(n)` of an integer. -/
def ofInt (n : Int) : Binary64 := round (decide (n < 0)) n.natAbs 1 0

/-- `a ×f b`. -/
def mul : Binary64 → Binary64 → Binary64
  | .finite n1 s1 e1, .finite n2 s2 e2 => round (n1 ^^ n2) (s1 * s2) 1 (e1 + e2)
  | .finite n1 s1 _, .inf n2 => if s1 = 0 then .nan else .inf (n1 ^^ n2)
  | .inf n1, .finite n2 s2 _ => if s2 = 0 then .nan else .inf (n1 ^^ n2)
  | .inf n1, .inf n2 => .inf (n1 ^^ n2)
  | .nan, _ => .nan
  | _, .nan => .nan

/-- `a ÷f b`. -/
def div : Binary64 → Binary64 → Binary64
  | .finite n1 s1 e1, .finite n2 s2 e2 =>
    if s2 = 0 then (if s1 = 0 then .nan else .inf (n1 ^^ n2)) else round (n1 ^^ n2) s1 s2 (e1 - e2)
  | .finite n1 _ _, .inf n2 => .finite (n1 ^^ n2) 0 minExp
  | .inf n1, .finite n2 _ _ => .inf (n1 ^^ n2)
  | .inf _, .inf _ => .nan
  | .nan, _ => .nan
  | _, .nan => .nan

/-- The sign changed. -/
def negate : Binary64 → Binary64
  | .finite n s e => .finite (!n) s e
  | .inf n => .inf (!n)
  | .nan => .nan

/-- The finite values in the form IEEE 754 holds them. -/
def canonical : Binary64 → Bool
  | .finite _ s e =>
    decide (s < 2 ^ 53) && decide (minExp ≤ e) && decide (e ≤ maxExp) && (decide (2 ^ 52 ≤ s) || e == minExp)
  | .inf _ => false
  | .nan => false

/-- The rational number a finite value denotes (0 for the others). -/
def value : Binary64 → ℚ
  | .finite n s e => (if n then -1 else 1) * (s : ℚ) * (2 : ℚ) ^ e
  | .inf _ => 0
  | .nan => 0

/-- The value written `±0x1.<frac>p<e>` with 13 hexadecimal digits of fraction. -/
def hex (neg : Bool) (frac : Nat) (e : Int) : Binary64 := .finite neg (2 ^ 52 + frac) (e - 52)

end Sys2Proof.Binary64
end

