-- ==== Sys2Proof/Machine/Flags.lean ====
section
/-! DEFINITION. Flag computations: the full-scale flag of the decoder (spec/43_sample_decoder.md R232), and the numeric
codes of a response's status and step (spec/30_encoding.md R117, R118). The block has no condition codes
(spec/10_state.md R43); `hv`, `conv_pending` and `cancel_pending` are written by the operations that own them. -/

namespace Sys2Proof.Machine

/-- `fs`: the raw code is a clipping boundary, before sign extension (43_sample_decoder.md R232). -/
def fullScale (raw : BitVec 12) : Bool := raw == 0x7FF#12 || raw == 0x800#12

/-- The 3-bit status code (30_encoding.md R117). -/
def Status.code : Status → BitVec 3
  | .ok => 0#3
  | .transportError => 1#3
  | .deviceNotFound => 2#3
  | .notInitialized => 3#3
  | .cancelled => 4#3

/-- The 3-bit step code (30_encoding.md R118). -/
def ErrStep.code : ErrStep → BitVec 3
  | .none => 0#3
  | .openBus => 1#3
  | .scanBus => 2#3
  | .cfgWrite => 3#3
  | .ptrSelect => 4#3
  | .resultRead => 5#3

/-- The status of a response: 0 is used only inside `InitOk` and `MeasOk` (30_encoding.md R117). -/
def Response.status : Response → Status
  | .initOk => .ok
  | .measOk _ _ _ _ => .ok
  | .err status _ => status

end Sys2Proof.Machine
end

