-- ==== Sys2Proof/Machine/Decoder.lean ====
section
/-! DEFINITION. The Sample Decoder, DECODE (spec/43_sample_decoder.md). -/

namespace Sys2Proof.Machine

/-- Reassembly, `(b0 << 4) | (b1 >> 4)` (43_sample_decoder.md R231). -/
def reassemble (b0 b1 : Byte) : BitVec 12 := (b0.setWidth 12 <<< 4) ||| (b1 >>> 4).setWidth 12

/-- Sign extension to 16 bits as the rule writes it (43_sample_decoder.md R233). -/
def signExtendRaw (raw : BitVec 12) : BitVec 16 :=
  if 0x7FF < raw.toNat then raw.setWidth 16 ||| 0xF000#16 else raw.setWidth 16

/-- `f64(FS[g])` (10_state.md R50). -/
def fullScaleVolts (g : Gain) : Binary64 := Binary64.ofRatio g.fullScaleMillivolts 1000

/-- `(f64(FS[g]) ×f f64(s)) ÷f 2048.0`, in this order (43_sample_decoder.md R235). -/
def scaleVolts (g : Gain) (s : Int) : Binary64 :=
  ((fullScaleVolts g).mul (Binary64.ofInt s)).div (Binary64.ofInt 2048)

/-- `s × LSB_UV[g]` in 24-bit two's complement (43_sample_decoder.md R236). -/
def scaleMicrovolts (g : Gain) (s : Int) : BitVec 24 := BitVec.ofInt 24 (s * (g.lsbMicrovolts : Int))

/-- `DECODE(b0, b1, g)` (43_sample_decoder.md R230). -/
def decodeSample (b0 b1 : Byte) (g : Gain) : Sample :=
  let raw := reassemble b0 b1
  let code := signExtendRaw raw
  { raw := raw
    code := code
    volts := scaleVolts g code.toInt
    uv := scaleMicrovolts g code.toInt
    fs := fullScale raw }

/-- DECODE run alone, with the gain `lg` of the measurement: it writes no state; its results are put out
(43_sample_decoder.md R230, R243). -/
def execDecode (b0 b1 : Byte) (s : State) : Result :=
  withField .lg s.lg fun g => .next (s.emit (.decoded (decodeSample b0 b1 g)))

end Sys2Proof.Machine
end

