-- ==== Sys2Proof/Machine/Encoder.lean ====
section
/-! DEFINITION. The Configuration Encoder, ENCODE (spec/41_configuration_encoder.md). -/

namespace Sys2Proof.Machine

/-- `cfg[15:8]`: start bit, channel, gain, single-shot mode (41_configuration_encoder.md R160, R170). -/
def configHigh (c : Channel) (g : Gain) : Byte :=
  0x80#8 ||| (c.mux.setWidth 8 <<< 4) ||| (g.controlBits.setWidth 8 <<< 1) ||| 0x01#8

/-- `ENCODE(chan, gain)` (41_configuration_encoder.md R160). -/
def configWord (c : Channel) (g : Gain) : Word16 := configHigh c g ++ Config.fixedLowByte

/-- ENCODE run alone: it writes no state; its result is put out (41_configuration_encoder.md R160, R166). -/
def execEncode (c : Channel) (g : Gain) (s : State) : Result := .next (s.emit (.encoded (configWord c g)))

end Sys2Proof.Machine
end

