-- ==== Sys2Proof/Machine/Sequencer.lean ====
section
/-! DEFINITION. The Conversion Sequencer: MEASURE, CFG_WRITE, WAIT, PTR_SELECT, RESULT_READ, CANCEL, and the events that
complete them (spec/42_conversion_sequencer.md). -/

namespace Sys2Proof.Machine

/-- The issue of CFG_WRITE (42_conversion_sequencer.md R182). -/
def issueCfgWrite (c : Channel) (g : Gain) (s : State) : Result := writeToDevice (cfgFrame (configWord c g)) s

/-- The issue of PTR_SELECT (42_conversion_sequencer.md R188). -/
def issuePtrSelect (s : State) : Result := writeToDevice selectFrame s

/-- The issue of RESULT_READ (42_conversion_sequencer.md R191). -/
def issueResultRead (s : State) : Result := readFromDevice resultLength s

/-- MEASURE (42_conversion_sequencer.md R180). Outside IDLE it is not accepted and nothing happens (10_state.md R31). -/
def execMeasure (c : Channel) (g : Gain) (s : State) : Result :=
  if s.st ≠ .idle then .next s
  else if s.hv = false then .next (errorExit .notInitialized .none s)
  else if s.convPending = true then .next ((s.latch c g).setSt .hold)
  else mapNext (State.setSt .cfgWriting) (issueCfgWrite c g (s.latch c g))

/-- CFG_WRITE, with the precondition of its rule (42_conversion_sequencer.md R182). -/
def execCfgWrite (c : Channel) (g : Gain) (s : State) : Result :=
  if s.convPending = false ∧ s.hv = true then issueCfgWrite c g s else .fault .cfgWritePrecondition

/-- WAIT: in CONVERTING there is no output action and nothing changes; TimerExpire or CANCEL ends the wait
(42_conversion_sequencer.md R184). -/
def execWait (s : State) : Result :=
  if s.st = .converting then .next s else .fault (.notEnabled .wait s.st)

/-- PTR_SELECT (42_conversion_sequencer.md R188). -/
def execPtrSelect (s : State) : Result := issuePtrSelect s

/-- RESULT_READ (42_conversion_sequencer.md R191). -/
def execResultRead (s : State) : Result := issueResultRead s

/-- CANCEL (42_conversion_sequencer.md R195). -/
def execCancel (s : State) : Result :=
  match s.st with
  | .idle | .opening | .scanning => .next s
  | .hold | .converting => .next (errorExit .cancelled .none s)
  | .cfgWriting | .selecting | .reading => .next (s.setCancelPending true)

/-! ### Completions -/

/-- The device after a successful configuration write (20_memory.md R87 a). -/
def deviceConfigured (cfg : Word16) : Device where
  cfg := cfg
  ptr := Config.regConfig
  pending := true

/-- `WriteDone` in CFG_WRITING (42_conversion_sequencer.md R183, R186; the device by 20_memory.md R87 a and R85). -/
def onCfgWriteDone (r : Reply Unit) (s : State) : Result :=
  match r with
  | .ok () =>
    withField .lch s.lch fun c => withField .lg s.lg fun g =>
      let s1 := armGuard (s.setDev (deviceConfigured (configWord c g)))
      if s.cancelPending = true then .next (errorExit .cancelled .none s1) else .next (s1.setSt .converting)
  | .err => .next (errorExit .transportError .cfgWrite (armGuard s.loseDevice))

/-- `WriteDone` in SELECTING (42_conversion_sequencer.md R189, R190; the device by 20_memory.md R87 b and R85). -/
def onPtrSelectDone (r : Reply Unit) (s : State) : Result :=
  match r with
  | .ok () =>
    let s1 := s.setDev { s.dev with ptr := Config.regConversion }
    if s.cancelPending = true then .next (errorExit .cancelled .none s1)
    else mapNext (State.setSt .reading) (issueResultRead s1)
  | .err => .next (errorExit .transportError .ptrSelect s.loseDevice)

/-- `WriteDone`, by the state whose operation it completes (42_conversion_sequencer.md R197). -/
def onWriteDone (r : Reply Unit) (s : State) : Result :=
  if s.st = .cfgWriting then onCfgWriteDone r s
  else if s.st = .selecting then onPtrSelectDone r s
  else .fault (.notEnabled .writeDone s.st)

/-- The outputs and the end of a successful measurement: the warning, if any, then the response
(42_conversion_sequencer.md R192, 43_sample_decoder.md R234). -/
def deliverSample (d : Sample) (s : State) : State :=
  finish (.measOk d.code d.volts d.uv d.fs) (if d.fs = true then s.emit (.warn d.raw) else s)

/-- `ReadDone` (42_conversion_sequencer.md R192, R193; the device by 20_memory.md R87 c and R85). -/
def onReadDone (r : Reply (List Byte)) (s : State) : Result :=
  if s.st = .reading then
    match r with
    | .ok [b0, b1] =>
      if s.cancelPending = true then .next (errorExit .cancelled .none s)
      else withField .lg s.lg fun g => .next (deliverSample (decodeSample b0 b1 g) s)
    | .ok bytes => .fault (.readLength bytes.length)
    | .err => .next (errorExit .transportError .resultRead s.loseDevice)
  else .fault (.notEnabled .readDone s.st)

/-- `TimerExpire` (42_conversion_sequencer.md R181, R187). The conversion that the timer guards is over by then
(20_memory.md R87 d, 70_reset_and_hazards.md R353). -/
def onTimerExpire (s : State) : Result :=
  if s.convPending = false then .fault (.notEnabled .timerExpire s.st)
  else
    let s1 := (s.setConvPending false).setDev { s.dev with pending := false }
    match s.st with
    | .converting => mapNext (State.setSt .selecting) (issuePtrSelect s1)
    | .hold =>
      withField .lch s.lch fun c => withField .lg s.lg fun g =>
        mapNext (State.setSt .cfgWriting) (issueCfgWrite c g s1)
    | .idle | .opening | .scanning => .next s1
    | .cfgWriting | .selecting | .reading => .fault (.notEnabled .timerExpire s.st)

/-- The device's conversion ends before the timer expires (20_memory.md R87 d). -/
def onConversionEnd (s : State) : Result :=
  if s.dev.pending = true then .next (s.setDev { s.dev with pending := false })
  else .fault (.notEnabled .conversionEnd s.st)

end Sys2Proof.Machine
end

