-- ==== Sys2Proof/Machine/Dispatch.lean ====
section
/-! DEFINITION. The meaning of each operation of spec/opcode_table.json, one arm per constructor. -/

namespace Sys2Proof.Machine

def exec (i : Instr) (s : State) : Host.Outcome State Fault Refusal :=
  match i with
  -- host commands (spec/42_conversion_sequencer.md, spec/44_initialization.md)
  | .measure c g => Sys2Proof.Machine.execMeasure c g s
  | .init bus addr => Sys2Proof.Machine.execInit bus addr s
  | .cancel => Sys2Proof.Machine.execCancel s
  -- combinational datapath operations (spec/41_configuration_encoder.md, spec/43_sample_decoder.md)
  | .encode c g => Sys2Proof.Machine.execEncode c g s
  | .decode b0 b1 => Sys2Proof.Machine.execDecode b0 b1 s
  -- bus and timer micro-operations
  | .cfgWrite c g => Sys2Proof.Machine.execCfgWrite c g s
  | .wait => Sys2Proof.Machine.execWait s
  | .ptrSelect => Sys2Proof.Machine.execPtrSelect s
  | .resultRead => Sys2Proof.Machine.execResultRead s
  | .busOpen bus => Sys2Proof.Machine.execBusOpen bus s
  | .busScan h => Sys2Proof.Machine.execBusScan h s

end Sys2Proof.Machine
end

