-- ==== Sys2Proof/Machine/Fetch.lean ====
section
/-! DEFINITION. How an operation comes to run: the request port's handshake (spec/10_state.md R31), the events of the
environment, and the place in the sequence at which an operation comes up. -/

namespace Sys2Proof.Machine

/-- `req_ready(cmd) = (st == IDLE) or (op(cmd) == CANCEL)` (10_state.md R31). -/
def reqReady (i : Instr) (s : State) : Bool := s.st == .idle || i == .cancel

/-- The presented word is taken if it is accepted; if not it "stays presented" (10_state.md R31). -/
def takeRequest (i : Instr) (s : State) : State := if reqReady i s then s.setReq s.req.tail else s

/-- The host's turn: the presented word is decoded, refused if it spells no command (30_encoding.md R124..R126), and run
if it is accepted. -/
def onHost (s : State) : Result :=
  match s.req with
  | [] => .fault .noCommand
  | w :: _ =>
    match decode (.cmd w) with
    | .ok i => exec i (takeRequest i s)
    | .error r => .refused (.reserved r)

/-- One internal operation run alone (log entry 5). -/
def onIssue (m : InternalWord) (s : State) : Result :=
  match decode (.internal m) with
  | .ok i => exec i s
  | .error r => .refused (.reserved r)

/-- One event (00_scope.md R15, 42_conversion_sequencer.md R197). -/
def consume (e : Event) (s : State) : Result :=
  match e with
  | .host => onHost s
  | .openDone r => onOpenDone r s
  | .scanDone r => onScanDone r s
  | .writeDone r => onWriteDone r s
  | .readDone r => onReadDone r s
  | .timerExpire => onTimerExpire s
  | .reset => onReset s
  | .conversionEnd => onConversionEnd s
  | .issue m => onIssue m s

/-- A bound handle, where none is written: the operations on the device come up only with one. -/
def withHandle (s : State) : State :=
  { s with
    hv := true
    hbus := some (s.hbus.getD { token := 0 })
    haddr := some (s.haddr.getD Config.defaultAddr) }

/-- The state in which the sequencer comes to this operation: `st` is the analogue of a program counter (10_state.md
R38). INIT and MEASURE are taken in IDLE (R31), WAIT is the state CONVERTING (42_conversion_sequencer.md R184), CFG_WRITE
needs its precondition (R182), and the operations on the device a bound handle. -/
def atSequencePoint (i : Instr) (s : State) : State :=
  match i with
  | .measure _ _ => s.setSt .idle
  | .init _ _ => s.setSt .idle
  | .cancel => s
  | .encode _ _ => s
  | .decode _ _ => { s with lg := some (s.lg.getD .one) }
  | .cfgWrite _ _ => (withHandle s).setConvPending false
  | .wait => s.setSt .converting
  | .ptrSelect => withHandle s
  | .resultRead => withHandle s
  | .busOpen _ => s
  | .busScan _ => s

/-- The word as the environment's next choice: a command word on the request port with the host's turn, an internal word
as the operation to run alone. -/
def present (o : OpWord) (s : State) : State :=
  match o with
  | .cmd w => (s.setReq (w :: s.req)).setSched (.host :: s.sched)
  | .internal m => s.setSched (.issue m :: s.sched)

/-- The word presented at the place where the sequencer comes to its operation. -/
def presentAtSequencePoint (o : OpWord) (s : State) : State :=
  match decode o with
  | .ok i => present o (atSequencePoint i s)
  | .error _ => present o s

end Sys2Proof.Machine
end

