-- ==== Sys2Proof/Machine/Step.lean ====
section
/-! DEFINITION. One step of the machine: the next event of the environment is consumed (spec/00_scope.md R15). -/

namespace Sys2Proof.Machine

/-- One step. -/
def step (s : State) : Host.Outcome State Fault Refusal :=
  match s.sched with
  | [] => .fault .noEvent
  | e :: rest => consume e (s.setSched rest)

/-- The word of an opcode-table row placed so that the very next step runs it (log entry 7). -/
def State.withFetchWord (s : State) (nbits w : Nat) : State := presentAtSequencePoint (tableOpWord nbits w) s

end Sys2Proof.Machine
end

