-- ==== Sys2Proof/Safety.lean ====
section
/-! DEFINITION. The terms that claims are stated in: the invariants of spec/42_conversion_sequencer.md R198 and
spec/10_state.md R44, where runs start and end (spec/70_reset_and_hazards.md R360, R361), and which actions are what. -/

namespace Sys2Proof.Machine

/-- The states of a measurement (42_conversion_sequencer.md R198 item 4). -/
def FsmState.measuring : FsmState → Bool
  | .idle | .opening | .scanning => false
  | .hold | .cfgWriting | .converting | .selecting | .reading => true

/-- The states in which a bus operation of a measurement is outstanding (10_state.md R36). -/
def FsmState.onBus : FsmState → Bool
  | .idle | .opening | .scanning | .hold | .converting => false
  | .cfgWriting | .selecting | .reading => true

/-- The invariants of 42_conversion_sequencer.md R198, in its order. -/
abbrev SequencerInv (s : State) : Prop :=
  (s.st = .hold ∨ s.st = .converting → s.convPending = true) ∧
  (s.st.onBus = true → s.convPending = false) ∧
  (s.cancelPending = true → s.st.onBus = true) ∧
  (s.st.measuring = true → s.hv = true ∧ s.lch.isSome = true ∧ s.lg.isSome = true) ∧
  (s.st = .opening ∨ s.st = .scanning → s.hv = false)

/-- With `hv` the handle and the address hold what a successful INIT leaves: both are written, and the address is the
one that INIT verified (44_initialization.md R263, R269). -/
abbrev HandleInv (s : State) : Prop :=
  s.hv = true → s.hbus.isSome = true ∧ s.haddr.isSome = true ∧ s.haddr = s.iaddr

/-- Which fields are written when (10_state.md R44, 44_initialization.md R269): the handle and the address with `hv`,
`iaddr` during INIT, `hbus` from its scan on. -/
abbrev WrittenInv (s : State) : Prop :=
  HandleInv s ∧
  (s.st = .opening ∨ s.st = .scanning → s.iaddr.isSome = true) ∧
  (s.st = .scanning → s.hbus.isSome = true)

/-- The invariants together. -/
abbrev BlockInv (s : State) : Prop := SequencerInv s ∧ WrittenInv s

/-- The known part of 10_state.md R58: a conversion in flight is covered by the guard timer. It can be lost only where
the device becomes unspecified with no timer armed. -/
abbrev DeviceCovered (s : State) : Prop := s.dev.pending = true → s.convPending = true

/-- A clean-entry state (70_reset_and_hazards.md R360). In IDLE no transport operation is outstanding and no response is
owed; `convPending` is the timer's armed bit (10_state.md R34). The model has no time: "no configuration write in the last
`CONV_DELAY`" stands as its effect, that with the timer not armed no conversion is in flight (log entry 26). -/
abbrev CleanEntry (s : State) : Prop :=
  s.st = .idle ∧ s.cancelPending = false ∧ DeviceCovered s ∧ HandleInv s

/-- The end of a run (70_reset_and_hazards.md R361): every command accepted, every response delivered. -/
abbrev RunEnded (s : State) : Prop := s.req = [] ∧ s.st = .idle ∧ s.convPending = false

/-- The event is one of the hardware's, not the model's own. -/
def Event.hardware : Event → Bool
  | .issue _ => false
  | .host => true
  | .openDone _ => true
  | .scanDone _ => true
  | .writeDone _ => true
  | .readDone _ => true
  | .timerExpire => true
  | .reset => true
  | .conversionEnd => true

/-- The transport reports a failure. -/
def Event.transportError : Event → Bool
  | .openDone .err => true
  | .scanDone .err => true
  | .writeDone .err => true
  | .readDone .err => true
  | _ => false

/-- The environment's next choice is `e`; `step` of it is the step on `e`. -/
def State.offer (e : Event) (s : State) : State := s.setSched (e :: s.sched)

/-- The host presents `w` before the words it presented already, and has its turn. -/
def State.request (w : Word16) (s : State) : State := (s.setReq (w :: s.req)).offer .host

/-- The action is an operation on the bus transport (00_scope.md R16). -/
def Action.onTransport : Action → Bool
  | .busOpen _ => true
  | .busScan _ => true
  | .busWrite _ _ _ => true
  | .busRead _ _ _ => true
  | .timerArm _ => false
  | .respond _ => false
  | .warn _ => false
  | .encoded _ => false
  | .decoded _ => false

/-- The action is the write of a configuration frame: a write with the pointer of the Configuration Register. -/
def Action.isCfgWrite : Action → Bool
  | .busWrite _ _ bytes => bytes.head? == some (pointerByte Config.regConfig)
  | _ => false

/-- The action belongs to the result phase: a register-select write or a result read. -/
def Action.isResultPhase : Action → Bool
  | .busWrite _ _ bytes => bytes == selectFrame
  | .busRead _ _ _ => true
  | _ => false

/-- The action delivers a response. -/
def Action.isResponse : Action → Bool
  | .respond _ => true
  | _ => false

/-- The action is the full-scale warning. -/
def Action.isWarn : Action → Bool
  | .warn _ => true
  | _ => false

/-- A request is in progress and its response is owed (10_state.md R32): in every state but IDLE. -/
def State.owesResponse (s : State) : Bool := s.st != .idle

/-- The step on `e` accepts an INIT or a MEASURE (10_state.md R31, R32). -/
def State.acceptsRequest (e : Event) (s : State) : Bool :=
  s.st == .idle && e == .host &&
    match s.req with
    | [] => false
    | w :: _ =>
      match decode (.cmd w) with
      | .ok i => i != .cancel
      | .error _ => false

/-- The state that waits for the completion of a transport action (10_state.md R36; 30_encoding.md R130). -/
def Action.waitsIn : Action → Option FsmState
  | .busOpen _ => some .opening
  | .busScan _ => some .scanning
  | .busWrite _ _ bytes => if bytes = selectFrame then some .selecting else some .cfgWriting
  | .busRead _ _ _ => some .reading
  | .timerArm _ => none
  | .respond _ => none
  | .warn _ => none
  | .encoded _ => none
  | .decoded _ => none

/-- The states with a transport operation outstanding (10_state.md R36). -/
def FsmState.waitsForTransport : FsmState → Bool
  | .idle | .hold | .converting => false
  | .opening | .scanning | .cfgWriting | .selecting | .reading => true

/-- The event is the completion of the operation outstanding in that state (10_state.md R36, the columns "outstanding
operation" and "leaves on"). -/
def Event.completes : Event → FsmState → Bool
  | .openDone _, st => st == .opening
  | .scanDone _, st => st == .scanning
  | .writeDone _, st => st == .cfgWriting || st == .selecting
  | .readDone _, st => st == .reading
  | .host, _ => false
  | .timerExpire, _ => false
  | .reset, _ => false
  | .conversionEnd, _ => false
  | .issue _, _ => false

/-- `outs` is what the step from `s` to `s'` put out. -/
def Puts (s s' : State) (outs : List Action) : Prop := s'.trace = s.trace ++ outs

end Sys2Proof.Machine
end

