-- ==== Sys2Proof/Certificates/Slice0/Obligations.lean ====
section
/-! DEFINITION. The statements for the provers, in the order of OBLIGATIONS.json. -/

open Sys2Proof Sys2Proof.Machine

/-! ### Encoding -/

/-- Decoding the word of an instruction gives the instruction back, with every operand at every value. -/
def Obligations.DecodeOfEncodeIsTheInstruction : Prop :=
  ∀ i : Instr, i.wellFormed = true → decode (encode i) = .ok i

/-- A word that decodes is the word of its instruction: each operation has one spelling, and no bit is ignored. -/
def Obligations.EncodeOfDecodeIsTheWord : Prop :=
  ∀ (o : OpWord) (i : Instr), decode o = .ok i → encode i = o

/-- The decoder accepts the words that the opcode table's match and mask and the closed index ranges admit, and no
other. -/
def Obligations.DecoderAcceptsExactlyTheWellFormedWords : Prop :=
  ∀ o : OpWord, (∃ i, decode o = .ok i) ↔ o.wellFormed = true

/-- 30_encoding.md R120: operand extraction from the command word. -/
def Obligations.CommandOperandExtraction : Prop :=
  (∀ w : Word16, bits w 0 2 = 0b01#2 → decode (.cmd w) = .ok (.init (bits w 9 7) (bits w 2 7))) ∧
  (∀ (w : Word16) (c : Channel) (g : Gain), bits w 0 2 = 0b00#2 → bits w 8 8 = 0#8 → bits w 2 3 = c.index →
    bits w 5 3 = g.index → decode (.cmd w) = .ok (.measure c g))

/-- Words written out from the encoding strings of 30_encoding.md and the vectors of 95_test_vectors.md. -/
def Obligations.WordsOfTheSpecDecode : Prop :=
  decode (.cmd 0b0000001100100001#16) = .ok (.init 1#7 0x48#7) ∧
  decode (.cmd 0b0000000010110100#16) = .ok (.measure .diff23 .sixteen) ∧
  decode (.cmd 0b0000000000000010#16) = .ok .cancel ∧
  decode (.internal (.cfg 0b1100001100000011#16)) = .ok (.encode .zero .one) ∧
  decode (.internal (.conv 0b0111111111110000#16)) = .ok (.decode 0x7F#8 0xF0#8) ∧
  decode (.internal (.frame [0b00000001#8, 0b10111011#8, 0b00000011#8])) = .ok (.cfgWrite .diff23 .sixteen) ∧
  decode (.internal (.frame [0b00000000#8])) = .ok .ptrSelect ∧
  decode (.internal (.read 2)) = .ok .resultRead

/-- 30_encoding.md R124, R125, R126: a command word with a reserved op, an index of 6 or 7, or a reserved bit set is
refused, and no INIT word is. That it is refused in every state, and that an INIT word's turn outside IDLE is a step,
are the model's choices, log entries 20 and 24. -/
def Obligations.ReservedCommandWordsAreRefused : Prop :=
  (∀ (s : State) (w : Word16),
    (bits w 0 2 = 0b11#2 ∨
      (bits w 0 2 = 0b00#2 ∧ (bits w 8 8 ≠ 0#8 ∨ 6 ≤ (bits w 2 3).toNat ∨ 6 ≤ (bits w 5 3).toNat)) ∨
      (bits w 0 2 = 0b10#2 ∧ bits w 2 14 ≠ 0#14)) →
    ∃ r, step (s.request w) = .refused (.reserved r)) ∧
  (∀ (s : State) (w : Word16), bits w 0 2 = 0b01#2 → ∃ s', step (s.request w) = .next s')

/-- The assembly syntax's pseudo-instructions take the source's defaults (30_encoding.md R132). -/
def Obligations.PseudoInstructionDefaults : Prop :=
  AsmLine.initDefault.expand = .init 1#7 0x48#7 ∧ AsmLine.initDefault.word = 0x0321#16 ∧
  ∀ bus, (AsmLine.initBus bus).expand = .init bus 0x48#7

/-! ### Fetch and handshake -/

/-- A step runs the decoded operation: the presented command word, taken off the port if it is accepted, or an
internal word; the consumed event is gone from the environment's list, and nothing else changes before the operation's
meaning. -/
def Obligations.StepRunsTheDecodedInstruction : Prop :=
  (∀ (s : State) (w : Word16) (ws : List Word16) (rest : List Event) (i : Instr),
    s.sched = .host :: rest → s.req = w :: ws → decode (.cmd w) = .ok i →
    step s = exec i (if s.st = .idle ∨ i = .cancel then { s with sched := rest, req := ws }
      else { s with sched := rest })) ∧
  (∀ (s : State) (m : InternalWord) (rest : List Event) (i : Instr),
    s.sched = .issue m :: rest → decode (.internal m) = .ok i → step s = exec i { s with sched := rest })

/-- 10_state.md R31: INIT and MEASURE are accepted in IDLE only; elsewhere the word stays presented and the block does
not change. CANCEL is accepted in every state. That the host's turn with a held word is a step answering a next state
is the model's choice, log entry 24. -/
def Obligations.RequestHandshake : Prop :=
  (∀ (s : State) (w : Word16) (i : Instr), decode (.cmd w) = .ok i → i ≠ .cancel → s.st ≠ .idle →
    step (s.request w) = .next { s with req := w :: s.req }) ∧
  (∀ (s : State) (w : Word16) (i : Instr), decode (.cmd w) = .ok i → i ≠ .cancel → s.st = .idle →
    step (s.request w) = exec i s) ∧
  (∀ s : State, step (s.request 0x0002#16) = exec .cancel s)

/-- 42_conversion_sequencer.md R197, a law the spec marks as derived: in a state that meets the invariants, a
completion and TimerExpire have a step, and a command is taken off the port, exactly where the table of enabled events
says so. A command that is not taken has a step that changes nothing: the model's choice, log entry 24. -/
def Obligations.EnabledEvents : Prop :=
  ∀ s : State, BlockInv s →
    (∀ r, (∃ s', step (s.offer (.openDone r)) = .next s') ↔ s.st = .opening) ∧
    (∀ r, (∃ s', step (s.offer (.scanDone r)) = .next s') ↔ s.st = .scanning) ∧
    (∀ r, (∃ s', step (s.offer (.writeDone r)) = .next s') ↔ s.st = .cfgWriting ∨ s.st = .selecting) ∧
    (∀ b0 b1, (∃ s', step (s.offer (.readDone (.ok [b0, b1]))) = .next s') ↔ s.st = .reading) ∧
    ((∃ s', step (s.offer (.readDone .err)) = .next s') ↔ s.st = .reading) ∧
    ((∃ s', step (s.offer .timerExpire) = .next s') ↔ s.convPending = true) ∧
    (∃ s', step (s.request 0x0002#16) = .next s' ∧ s'.req = s.req) ∧
    (∀ w i, decode (.cmd w) = .ok i → i ≠ .cancel →
      ((∃ s', step (s.request w) = .next s' ∧ s'.req = s.req) ↔ s.st = .idle))

/-! ### Configuration Encoder -/

/-- 41_configuration_encoder.md R160: ENCODE runs in every state and writes none of it; that a run of it alone puts its
result out is the model's choice, log entry 6. -/
def Obligations.EncodeRuns : Prop :=
  ∀ (c : Channel) (g : Gain) (s : State),
    exec (.encode c g) s = .next { s with trace := s.trace ++ [.encoded
      (0x8000#16 ||| (c.mux.setWidth 16 <<< 12) ||| (g.controlBits.setWidth 16 <<< 9) ||| 0x0100#16 ||| 0x0003#16)] }

/-- 41_configuration_encoder.md R160, R162, R163, R170: every configuration word, its fields and its bytes. -/
def Obligations.ConfigurationWordFields : Prop :=
  ∀ (c : Channel) (g : Gain),
    configWord c g =
      (0x80#8 ||| (c.mux.setWidth 8 <<< 4) ||| (g.controlBits.setWidth 8 <<< 1) ||| 0x01#8) ++ 0x03#8 ∧
    configWord c g = 0x8000#16 ||| (c.mux.setWidth 16 <<< 12) ||| (g.controlBits.setWidth 16 <<< 9) |||
      0x0100#16 ||| 0x0003#16 ∧
    bits (configWord c g) 15 1 = 1#1 ∧ bits (configWord c g) 12 3 = c.mux ∧
    bits (configWord c g) 9 3 = g.controlBits ∧ bits (configWord c g) 8 1 = 1#1 ∧
    bits (configWord c g) 0 8 = 0x03#8 ∧ lowByte (configWord c g) = 0x03#8 ∧
    highByte (configWord c g) =
      0x80#8 ||| (c.mux.setWidth 8 <<< 4) ||| (g.controlBits.setWidth 8 <<< 1) ||| 0x01#8

/-- 41_configuration_encoder.md R167, R168, laws the spec marks as derived: the parts are disjoint, so the word is
their concatenation; the channel and the gain can be read back; the table of the 36 words. -/
def Obligations.ConfigurationWordTable : Prop :=
  (∀ (c : Channel) (g : Gain), configWord c g = 1#1 ++ c.mux ++ g.controlBits ++ 1#1 ++ 0x03#8) ∧
  (∀ (c c' : Channel) (g g' : Gain), configWord c g = configWord c' g' → c = c' ∧ g = g') ∧
  [Channel.zero, .one, .two, .three, .diff01, .diff23].map
      (fun c => [Gain.twoThirds, .one, .two, .four, .eight, .sixteen].map (configWord c)) =
    [[0xC103#16, 0xC303#16, 0xC503#16, 0xC703#16, 0xC903#16, 0xCB03#16],
     [0xD103#16, 0xD303#16, 0xD503#16, 0xD703#16, 0xD903#16, 0xDB03#16],
     [0xE103#16, 0xE303#16, 0xE503#16, 0xE703#16, 0xE903#16, 0xEB03#16],
     [0xF103#16, 0xF303#16, 0xF503#16, 0xF703#16, 0xF903#16, 0xFB03#16],
     [0x8103#16, 0x8303#16, 0x8503#16, 0x8703#16, 0x8903#16, 0x8B03#16],
     [0xB103#16, 0xB303#16, 0xB503#16, 0xB703#16, 0xB903#16, 0xBB03#16]]

/-- 10_state.md R52, R53: distinct codes, full-scale values that fall as the control bits rise, by halves after the
first step, and single-ended channels apart from the differential ones, ZERO on input 0 against ground. Which inputs a
channel selects, and so that no two select the same ones, is the column "input selected" of R51, a default of the spec:
log entry 10. -/
def Obligations.GainAndChannelTables : Prop :=
  (∀ g g' : Gain, g.controlBits = g'.controlBits → g = g') ∧
  (∀ g g' : Gain, g.controlBits < g'.controlBits → g'.fullScaleMillivolts < g.fullScaleMillivolts) ∧
  (∀ g g' : Gain, 1 ≤ g.controlBits.toNat → g'.controlBits.toNat = g.controlBits.toNat + 1 →
    g.fullScaleMillivolts = 2 * g'.fullScaleMillivolts) ∧
  Gain.one.fullScaleMillivolts = 4096 ∧ Gain.twoThirds.fullScaleMillivolts = 6144 ∧
  (∀ c c' : Channel, c.mux = c'.mux → c = c') ∧
  (∀ c c' : Channel, c.singleEnded = true → c'.singleEnded = false → c.mux ≠ c'.mux) ∧
  (∀ c : Channel, (c.mux.setWidth 8 <<< 4) &&& 0x0F#8 = 0#8) ∧
  [Channel.zero, .one, .two, .three, .diff01, .diff23].map Channel.singleEnded =
    [true, true, true, true, false, false] ∧
  Channel.zero.inputs = (0, none) ∧ (∀ c c' : Channel, c.inputs = c'.inputs → c = c')

/-! ### Conversion Sequencer -/

/-- 42_conversion_sequencer.md R180: MEASURE in IDLE: without a handle it is answered at once; with the guard timer
armed it is held; otherwise the configuration frame is written. Outside IDLE it waits on the port: that its turn there
is a step is the model's choice, log entry 24. That the NOT_INITIALIZED response clears `cancel_pending` is
60_exceptions.md R302, which R180 does not list: log entry 19. -/
def Obligations.MeasureAcceptance : Prop :=
  (∀ (c : Channel) (g : Gain) (s : State), s.st ≠ .idle →
    step (s.request (measureWord c g)) = .next { s with req := measureWord c g :: s.req }) ∧
  ∀ (c : Channel) (g : Gain) (s : State), s.st = .idle →
    (s.hv = false →
      exec (.measure c g) s =
        .next { s with
          cancelPending := false, trace := s.trace ++ [.respond (.err .notInitialized .none)] }) ∧
    (s.hv = true → s.convPending = true →
      exec (.measure c g) s = .next { s with st := .hold, lch := some c, lg := some g }) ∧
    (∀ h a, s.hv = true → s.convPending = false → s.hbus = some h → s.haddr = some a →
      exec (.measure c g) s =
        .next { s with
          st := .cfgWriting, lch := some c, lg := some g,
          trace := s.trace ++ [.busWrite h a [0x01#8, highByte (configWord c g), 0x03#8]] })

/-- 42_conversion_sequencer.md R182: CFG_WRITE, under its precondition, writes the frame F-W3 and nothing else. -/
def Obligations.CfgWriteIssuesTheFrame : Prop :=
  ∀ (c : Channel) (g : Gain) (s : State) (h : BusHandle) (a : DevAddr),
    s.convPending = false → s.hv = true → s.hbus = some h → s.haddr = some a →
    exec (.cfgWrite c g) s =
      .next { s with
        trace := s.trace ++ [.busWrite h a [0x01#8, highByte (configWord c g), lowByte (configWord c g)]] }

/-- 42_conversion_sequencer.md R184: in CONVERTING the wait puts nothing out and changes nothing. -/
def Obligations.WaitChangesNothing : Prop :=
  ∀ s : State, s.st = .converting → exec .wait s = .next s

/-- 42_conversion_sequencer.md R184, R187, R195 and 70_reset_and_hazards.md R340: the block leaves CONVERTING only on
TimerExpire, on an accepted CANCEL, or by a reset, and while it stays there it puts out nothing on the transport but
what an internal operation run alone puts out. -/
def Obligations.ConvertingIsLeftOnlyByExpiryOrCancel : Prop :=
  ∀ (s s' : State) (e : Event) (rest : List Event), s.st = .converting → s.sched = e :: rest → step s = .next s' →
    (s'.st ≠ .converting → e = .timerExpire ∨ e = .reset ∨ (e = .host ∧ s.req.head? = some 0x0002#16)) ∧
    (s'.st = .converting → e.hardware = true → s'.trace = s.trace)

/-- 42_conversion_sequencer.md R188: PTR_SELECT writes the frame F-W1 and nothing else. -/
def Obligations.PtrSelectIssuesTheFrame : Prop :=
  ∀ (s : State) (h : BusHandle) (a : DevAddr), s.hbus = some h → s.haddr = some a →
    exec .ptrSelect s = .next { s with trace := s.trace ++ [.busWrite h a [0x00#8]] }

/-- 42_conversion_sequencer.md R191: RESULT_READ reads two bytes from the bound address and does nothing else; an
answer of another length has no step: that this is the fault `readLength` is the model's choice, log entry 15. -/
def Obligations.ResultReadIssuesTheRead : Prop :=
  (∀ (s : State) (h : BusHandle) (a : DevAddr), s.hbus = some h → s.haddr = some a →
    exec .resultRead s = .next { s with trace := s.trace ++ [.busRead h a 2] }) ∧
  (∀ (s : State) (bytes : List Byte), s.st = .reading → bytes.length ≠ 2 →
    step (s.offer (.readDone (.ok bytes))) = .fault (.readLength bytes.length))

/-- 10_state.md R44: an operation that reads an unwritten field faults, and CFG_WRITE outside its precondition stops
under a name of its own (the model's choice, log entry 9). -/
def Obligations.OperationsStopOnUnwrittenFields : Prop :=
  ∀ (s : State),
    (s.hbus = none → exec .ptrSelect s = .fault (.unwritten .hbus) ∧
      exec .resultRead s = .fault (.unwritten .hbus)) ∧
    (∀ h, s.hbus = some h → s.haddr = none → exec .ptrSelect s = .fault (.unwritten .haddr) ∧
      exec .resultRead s = .fault (.unwritten .haddr)) ∧
    (∀ c g, s.convPending = false → s.hv = true → s.hbus = none →
      exec (.cfgWrite c g) s = .fault (.unwritten .hbus)) ∧
    (∀ c g h, s.convPending = false → s.hv = true → s.hbus = some h → s.haddr = none →
      exec (.cfgWrite c g) s = .fault (.unwritten .haddr)) ∧
    (∀ c g, s.convPending = true ∨ s.hv = false → exec (.cfgWrite c g) s = .fault .cfgWritePrecondition) ∧
    (∀ b0 b1, s.lg = none → exec (.decode b0 b1) s = .fault (.unwritten .lg))

/-- 42_conversion_sequencer.md R195: CANCEL in each state. That the CANCELLED response in HOLD and CONVERTING clears
`cancel_pending` is 60_exceptions.md R302, which R195 does not list: log entry 19. -/
def Obligations.CancelByState : Prop :=
  ∀ s : State,
    (s.st = .idle ∨ s.st = .opening ∨ s.st = .scanning → exec .cancel s = .next s) ∧
    (s.st = .hold ∨ s.st = .converting →
      exec .cancel s = .next { s with
        st := .idle, cancelPending := false, trace := s.trace ++ [.respond (.err .cancelled .none)] }) ∧
    (s.st = .cfgWriting ∨ s.st = .selecting ∨ s.st = .reading →
      exec .cancel s = .next { s with cancelPending := true })

/-- 42_conversion_sequencer.md R183: the configuration write succeeds. -/
def Obligations.CfgWriteSucceeds : Prop :=
  ∀ (s : State) (c : Channel) (g : Gain), s.st = .cfgWriting → s.lch = some c → s.lg = some g →
    (s.cancelPending = false →
      ∃ d, step (s.offer (.writeDone (.ok ()))) =
        .next { s with
          st := .converting, convPending := true, dev := d, trace := s.trace ++ [.timerArm 100] }) ∧
    (s.cancelPending = true →
      ∃ d, step (s.offer (.writeDone (.ok ()))) =
        .next { s with
          st := .idle, convPending := true, cancelPending := false, dev := d,
          trace := s.trace ++ [.timerArm 100, .respond (.err .cancelled .none)] })

/-- 42_conversion_sequencer.md R186: the configuration write fails; what the device holds then is unspecified
(20_memory.md R85). -/
def Obligations.CfgWriteFails : Prop :=
  ∀ s : State, s.st = .cfgWriting →
    ∃ d n, step (s.offer (.writeDone .err)) =
      .next { s with
        st := .idle, convPending := true, cancelPending := false, dev := d, draws := n,
        trace := s.trace ++ [.timerArm 100, .respond (.err .transportError .cfgWrite)] }

/-- 42_conversion_sequencer.md R181, R187: TimerExpire with the timer armed, in each state; without it there is no step.
That no step is a fault is the model's choice, log entry 15. -/
def Obligations.TimerExpiry : Prop :=
  ∀ s : State,
    (s.convPending = false → ∃ k, step (s.offer .timerExpire) = .fault k) ∧
    (s.convPending = true → s.st = .idle ∨ s.st = .opening ∨ s.st = .scanning →
      ∃ p, step (s.offer .timerExpire) =
        .next { s with convPending := false, dev := { s.dev with pending := p } }) ∧
    (∀ h a, s.convPending = true → s.st = .converting → s.hbus = some h → s.haddr = some a →
      ∃ p, step (s.offer .timerExpire) =
        .next { s with
          st := .selecting, convPending := false, dev := { s.dev with pending := p },
          trace := s.trace ++ [.busWrite h a [0x00#8]] }) ∧
    (∀ h a c g, s.convPending = true → s.st = .hold → s.hbus = some h → s.haddr = some a → s.lch = some c →
      s.lg = some g →
      ∃ p, step (s.offer .timerExpire) =
        .next { s with
          st := .cfgWriting, convPending := false, dev := { s.dev with pending := p },
          trace := s.trace ++ [.busWrite h a [0x01#8, highByte (configWord c g), 0x03#8]] })

/-- 42_conversion_sequencer.md R189, R190: the register-select write succeeds or fails. -/
def Obligations.PtrSelectCompletes : Prop :=
  ∀ s : State, s.st = .selecting →
    (∀ h a, s.cancelPending = false → s.hbus = some h → s.haddr = some a →
      ∃ d, step (s.offer (.writeDone (.ok ()))) =
        .next { s with st := .reading, dev := d, trace := s.trace ++ [.busRead h a 2] }) ∧
    (s.cancelPending = true →
      ∃ d, step (s.offer (.writeDone (.ok ()))) =
        .next { s with
          st := .idle, cancelPending := false, dev := d,
          trace := s.trace ++ [.respond (.err .cancelled .none)] }) ∧
    (∃ d n, step (s.offer (.writeDone .err)) =
      .next { s with
        st := .idle, cancelPending := false, dev := d, draws := n,
        trace := s.trace ++ [.respond (.err .transportError .ptrSelect)] })

/-- 42_conversion_sequencer.md R192: the result read succeeds, for every pair of bytes: decode with the latched gain,
warn before the response if the code is a clipping boundary; a cancelled measurement discards the bytes. -/
def Obligations.ResultReadSucceeds : Prop :=
  ∀ (s : State) (b0 b1 : Byte), s.st = .reading →
    (∀ g, s.cancelPending = false → s.lg = some g →
      step (s.offer (.readDone (.ok [b0, b1]))) =
        .next { s with
          st := .idle
          trace := s.trace ++
            (if (decodeSample b0 b1 g).fs = true then [Action.warn (decodeSample b0 b1 g).raw] else []) ++
            [.respond (.measOk (decodeSample b0 b1 g).code (decodeSample b0 b1 g).volts (decodeSample b0 b1 g).uv
              (decodeSample b0 b1 g).fs)] }) ∧
    (s.cancelPending = true →
      step (s.offer (.readDone (.ok [b0, b1]))) =
        .next { s with
          st := .idle, cancelPending := false, trace := s.trace ++ [.respond (.err .cancelled .none)] })

/-- 42_conversion_sequencer.md R193: the result read fails. -/
def Obligations.ResultReadFails : Prop :=
  ∀ s : State, s.st = .reading →
    ∃ d n, step (s.offer (.readDone .err)) =
      .next { s with
        st := .idle, cancelPending := false, dev := d, draws := n,
        trace := s.trace ++ [.respond (.err .transportError .resultRead)] }

/-- 20_memory.md R87: what each successful operation and the end of a conversion do to the device. That a successful
configuration write leaves the word of the latched channel and gain, and that the timer's expiry finds no conversion in
flight, are deductions of the model, log entries 16 and 12. -/
def Obligations.DeviceEffects : Prop :=
  ∀ s s' : State,
    (∀ c g, s.st = .cfgWriting → s.lch = some c → s.lg = some g → step (s.offer (.writeDone (.ok ()))) = .next s' →
      s'.dev = { cfg := configWord c g, ptr := 0b01#2, pending := true }) ∧
    (s.st = .selecting → step (s.offer (.writeDone (.ok ()))) = .next s' → s'.dev = { s.dev with ptr := 0b00#2 }) ∧
    (∀ b0 b1, step (s.offer (.readDone (.ok [b0, b1]))) = .next s' → s'.dev = s.dev) ∧
    (step (s.offer .timerExpire) = .next s' → s'.dev = { s.dev with pending := false }) ∧
    (s.dev.pending = true →
      step (s.offer .conversionEnd) = .next { s with dev := { s.dev with pending := false } })

/-- 42_conversion_sequencer.md R199, a trace the spec marks as derived: one successful measurement, from any state in
which it can start: five steps, and exactly the bus operations, the timer and the response of the rule, in its order.
-/
def Obligations.SuccessfulMeasurementTrace : Prop :=
  ∀ (s : State) (c : Channel) (g : Gain) (h : BusHandle) (a : DevAddr) (b0 b1 : Byte) (ws : List Word16)
    (rest : List Event),
    s.st = .idle → s.hv = true → s.convPending = false → s.cancelPending = false → s.hbus = some h →
    s.haddr = some a → s.req = measureWord c g :: ws →
    s.sched = [.host, .writeDone (.ok ()), .timerExpire, .writeDone (.ok ()), .readDone (.ok [b0, b1])] ++ rest →
    ∃ d, Host.Core.run Sys2Proof.core 5 s =
      .next { s with
        lch := some c, lg := some g, req := ws, sched := rest, dev := d
        trace := s.trace ++
          [.busWrite h a [0x01#8, highByte (configWord c g), 0x03#8], .timerArm 100, .busWrite h a [0x00#8],
            .busRead h a 2] ++
          (if (decodeSample b0 b1 g).fs = true then [Action.warn (decodeSample b0 b1 g).raw] else []) ++
          [.respond (.measOk (decodeSample b0 b1 g).code (decodeSample b0 b1 g).volts (decodeSample b0 b1 g).uv
            (decodeSample b0 b1 g).fs)] }

/-! ### Initialization and reset -/

/-- 44_initialization.md R260: INIT in IDLE discards the handle, keeps the address to verify and opens the bus.
Outside IDLE it waits on the port: that its turn there is a step is the model's choice, log entry 24. -/
def Obligations.InitAcceptance : Prop :=
  (∀ (bus : BusId) (addr : DevAddr) (s : State), s.st ≠ .idle →
    step (s.request (initWord bus addr)) = .next { s with req := initWord bus addr :: s.req }) ∧
  ∀ (bus : BusId) (addr : DevAddr) (s : State), s.st = .idle →
    exec (.init bus addr) s =
      .next { s with st := .opening, hv := false, iaddr := some addr, trace := s.trace ++ [.busOpen bus] }

/-- 44_initialization.md R265, R266: BUS_OPEN asks the transport to open the bus, BUS_SCAN asks it to enumerate the
devices on a handle; each does nothing else. -/
def Obligations.TransportCallsAreIssued : Prop :=
  (∀ (bus : BusId) (s : State), exec (.busOpen bus) s = .next { s with trace := s.trace ++ [.busOpen bus] }) ∧
  (∀ (h : BusHandle) (s : State), exec (.busScan h) s = .next { s with trace := s.trace ++ [.busScan h] })

/-- 44_initialization.md R261, R262: the open succeeds or fails. That the failure clears `cancel_pending` is
60_exceptions.md R302, which R262 does not list: log entry 19. -/
def Obligations.BusOpenCompletes : Prop :=
  ∀ s : State, s.st = .opening →
    (∀ h, step (s.offer (.openDone (.ok h))) =
      .next { s with st := .scanning, hbus := some h, trace := s.trace ++ [.busScan h] }) ∧
    (∃ d n, step (s.offer (.openDone .err)) =
      .next { s with
        st := .idle, cancelPending := false, dev := d, draws := n,
        trace := s.trace ++ [.respond (.err .transportError .openBus)] })

/-- 44_initialization.md R263, R264: the scan succeeds, with the address among the devices present or absent, or
fails. That the two error responses clear `cancel_pending` is 60_exceptions.md R302, which R263 and R264 do not list:
log entry 19. -/
def Obligations.BusScanCompletes : Prop :=
  ∀ s : State, s.st = .scanning →
    (∀ a present, s.iaddr = some a → a ∈ present →
      step (s.offer (.scanDone (.ok present))) =
        .next { s with st := .idle, haddr := some a, hv := true, trace := s.trace ++ [.respond .initOk] }) ∧
    (∀ a present, s.iaddr = some a → a ∉ present →
      step (s.offer (.scanDone (.ok present))) =
        .next { s with
          st := .idle, cancelPending := false, trace := s.trace ++ [.respond (.err .deviceNotFound .none)] }) ∧
    (∃ d n, step (s.offer (.scanDone .err)) =
      .next { s with
        st := .idle, cancelPending := false, dev := d, draws := n,
        trace := s.trace ++ [.respond (.err .transportError .scanBus)] })

/-- 70_reset_and_hazards.md R340: a reset in any state. That the ports' lists stay as they are is the model's
deduction, log entry 17. -/
def Obligations.ResetStep : Prop :=
  ∀ s : State, ∃ d n, step (s.offer .reset) =
    .next { s with
      st := .idle, hv := false, hbus := none, haddr := none, iaddr := none, lch := none, lg := none,
      convPending := true, cancelPending := false, dev := d, draws := n,
      trace := s.trace ++ [.timerArm 100] }

/-- 10_state.md R35, 70_reset_and_hazards.md R340: the block after reset, and the first MEASURE from there is answered
NOT_INITIALIZED (R344). That the ports are empty after reset is the model's choice, log entry 3. -/
def Obligations.StateAfterReset : Prop :=
  State.reset.st = .idle ∧ State.reset.hv = false ∧ State.reset.hbus = none ∧ State.reset.haddr = none ∧
  State.reset.iaddr = none ∧ State.reset.lch = none ∧ State.reset.lg = none ∧
  State.reset.convPending = true ∧ State.reset.cancelPending = false ∧
  State.reset.req = [] ∧ State.reset.sched = [] ∧ State.reset.trace = [.timerArm 100] ∧
  ∀ c g, step (State.reset.request (measureWord c g)) =
    .next { State.reset with trace := [.timerArm 100, .respond (.err .notInitialized .none)] }

/-- 10_state.md R39: `hv` becomes 1 only by a scan that reports the requested address, and becomes 0 only by an
accepted INIT or a reset. -/
def Obligations.HandleValidChangesOnlyByInitAndReset : Prop :=
  ∀ (s s' : State) (e : Event) (rest : List Event), s.sched = e :: rest → step s = .next s' →
    (s.hv = false → s'.hv = true →
      ∃ present a, e = .scanDone (.ok present) ∧ s.st = .scanning ∧ s.iaddr = some a ∧ a ∈ present ∧
        s'.haddr = some a ∧ s'.hbus = s.hbus) ∧
    (s.hv = true → s'.hv = false →
      e = .reset ∨ (e = .host ∧ s.st = .idle ∧
        ∃ w bus addr, s.req.head? = some w ∧ decode (.cmd w) = .ok (.init bus addr)))

/-! ### Sample Decoder -/

/-- 43_sample_decoder.md R230: the results of DECODE are those of the rule's four stages. -/
def Obligations.DecodeIsTheFourStages : Prop :=
  ∀ (b0 b1 : Byte) (g : Gain),
    decodeSample b0 b1 g =
      (let raw : BitVec 12 := (b0.setWidth 12 <<< 4) ||| (b1 >>> 4).setWidth 12
       let code : BitVec 16 := if raw.toNat > 0x7FF then raw.setWidth 16 ||| 0xF000#16 else raw.setWidth 16
       { raw := raw
         code := code
         volts := ((Binary64.ofRatio g.fullScaleMillivolts 1000).mul (Binary64.ofInt code.toInt)).div
           (Binary64.ofInt 2048)
         uv := BitVec.ofInt 24 (code.toInt * g.lsbMicrovolts)
         fs := raw == 0x7FF#12 || raw == 0x800#12 })

/-- 43_sample_decoder.md R230: DECODE runs wherever a gain is latched and writes no state; that a run of it alone puts
its results out is the model's choice, log entry 6. -/
def Obligations.DecodeRuns : Prop :=
  ∀ (b0 b1 : Byte) (s : State) (g : Gain), s.lg = some g →
    exec (.decode b0 b1) s = .next { s with trace := s.trace ++ [.decoded (decodeSample b0 b1 g)] }

/-- 43_sample_decoder.md R231, R233, R237 (in part marked as derived): `raw` is the two parts without overlap, and
`code` is its two's-complement value. -/
def Obligations.CodeIsTheSignedSample : Prop :=
  ∀ (b0 b1 : Byte) (g : Gain),
    (decodeSample b0 b1 g).raw.toNat = 16 * b0.toNat + b1.toNat / 16 ∧
    (decodeSample b0 b1 g).code = (decodeSample b0 b1 g).raw.signExtend 16 ∧
    (decodeSample b0 b1 g).code.toInt = (decodeSample b0 b1 g).raw.toInt ∧
    -2048 ≤ (decodeSample b0 b1 g).code.toInt ∧ (decodeSample b0 b1 g).code.toInt ≤ 2047 ∧
    (0x7FF < (decodeSample b0 b1 g).raw.toNat ↔ (decodeSample b0 b1 g).raw.msb = true)

/-- 43_sample_decoder.md R236: the microvolts are exact and fit in 24 bits. -/
def Obligations.MicrovoltsAreExact : Prop :=
  ∀ (b0 b1 : Byte) (g : Gain),
    (decodeSample b0 b1 g).uv.toInt = (decodeSample b0 b1 g).code.toInt * g.lsbMicrovolts ∧
    -6144000 ≤ (decodeSample b0 b1 g).uv.toInt ∧ (decodeSample b0 b1 g).uv.toInt ≤ 6141000 ∧
    g.lsbMicrovolts * 2048 = g.fullScaleMillivolts * 1000

/-- 00_scope.md R14: the rounding of the model's binary64 operations answers a canonical value, none is nearer to the
exact one, and where another is as near the answer's significand is even. -/
def Obligations.RoundingIsToNearest : Prop :=
  ∀ (neg : Bool) (num den : Nat) (e : Int), 0 < den → Binary64.round neg num den e ≠ .inf neg →
    (Binary64.round neg num den e).canonical = true ∧
    ∀ y : Binary64, y.canonical = true →
      |(Binary64.round neg num den e).value - (if neg then -1 else 1) * ((num : ℚ) / den) * (2 : ℚ) ^ e| ≤
        |y.value - (if neg then -1 else 1) * ((num : ℚ) / den) * (2 : ℚ) ^ e| ∧
      (|(Binary64.round neg num den e).value - (if neg then -1 else 1) * ((num : ℚ) / den) * (2 : ℚ) ^ e| =
          |y.value - (if neg then -1 else 1) * ((num : ℚ) / den) * (2 : ℚ) ^ e| →
        y.value = (Binary64.round neg num den e).value ∨
          ∃ sig E, Binary64.round neg num den e = .finite neg sig E ∧ sig % 2 = 0)

/-- 43_sample_decoder.md R235, the part marked as derived: the division by 2048 is exact, so the voltage is the
product, rounded once, times `2^-11`. -/
def Obligations.VoltsAreTheRoundedProductScaled : Prop :=
  ∀ (b0 b1 : Byte) (g : Gain),
    ((fullScaleVolts g).mul (Binary64.ofInt (decodeSample b0 b1 g).code.toInt)).canonical = true ∧
    (decodeSample b0 b1 g).volts.canonical = true ∧
    (decodeSample b0 b1 g).volts.value =
      ((fullScaleVolts g).mul (Binary64.ofInt (decodeSample b0 b1 g).code.toInt)).value * (2 : ℚ) ^ (-11 : Int)

/-- 43_sample_decoder.md R238, laws the spec marks as derived, of the two voltages `volts` and `uv` that the decoder
answers: for a fixed gain both rise strictly with the code; `volts` is negative exactly for the codes whose sign bit is
set; symmetry; zero; the full scale itself at the most negative code. -/
def Obligations.OrderAndSymmetryOfTheVoltage : Prop :=
  (∀ (b0 b1 : Byte) (g : Gain),
    (decodeSample b0 b1 g).volts = scaleVolts g (decodeSample b0 b1 g).code.toInt ∧
    (decodeSample b0 b1 g).uv = scaleMicrovolts g (decodeSample b0 b1 g).code.toInt) ∧
  (∀ (g : Gain) (s t : Int), -2048 ≤ s → s < t → t ≤ 2047 →
    (scaleVolts g s).value < (scaleVolts g t).value ∧ (scaleMicrovolts g s).toInt < (scaleMicrovolts g t).toInt) ∧
  (∀ (b0 b1 : Byte) (g : Gain),
    0 ≤ (decodeSample b0 b1 g).volts.value ↔ (decodeSample b0 b1 g).raw.msb = false) ∧
  (∀ (g : Gain) (s : Int), s ≠ 0 → scaleVolts g (-s) = (scaleVolts g s).negate) ∧
  (∀ (g : Gain) (s : Int), -2048 ≤ s → s ≤ 2048 → (scaleMicrovolts g (-s)).toInt = -(scaleMicrovolts g s).toInt) ∧
  (∀ g : Gain, scaleVolts g 0 = .finite false 0 (-1074) ∧ (scaleMicrovolts g 0).toInt = 0) ∧
  (∀ g : Gain, scaleVolts g (-2048) = (fullScaleVolts g).negate ∧
    (scaleMicrovolts g (-2048)).toInt = -((g.fullScaleMillivolts : Int) * 1000))

/-- 43_sample_decoder.md R242, a law the spec marks as derived: the low nibble of b1 is ignored. -/
def Obligations.LowNibbleIsIgnored : Prop :=
  ∀ (b0 b1 : Byte) (g : Gain), decodeSample b0 b1 g = decodeSample b0 (b1 &&& 0xF0#8) g

/-- 43_sample_decoder.md R239, R240: the source's two properties of the decoder. -/
def Obligations.SourcePropertiesOfDecode : Prop :=
  (∀ (v : Nat) (g : Gain), v ≤ 0x7FE →
    (decodeSample (BitVec.ofNat 8 (v / 16)) (BitVec.ofNat 8 (v % 16 * 16)) g).volts = scaleVolts g v ∧
    0 ≤ (scaleVolts g v).value ∧
    (decodeSample (BitVec.ofNat 8 (v / 16)) (BitVec.ofNat 8 (v % 16 * 16)) g).uv.toInt = v * g.lsbMicrovolts ∧
    (decodeSample (BitVec.ofNat 8 (v / 16)) (BitVec.ofNat 8 (v % 16 * 16)) g).fs = false) ∧
  (∀ g : Gain,
    (decodeSample 0x80#8 0x10#8 g).code.toInt = -2047 ∧ (decodeSample 0x80#8 0x10#8 g).volts.value < 0 ∧
    (decodeSample 0x7F#8 0xF0#8 g).code.toInt = 2047 ∧ (decodeSample 0x7F#8 0xF0#8 g).fs = true ∧
    (decodeSample 0x80#8 0x00#8 g).code.toInt = -2048 ∧ (decodeSample 0x80#8 0x00#8 g).fs = true ∧
    ∀ b0 b1, (decodeSample b0 b1 g).volts.value ≤ (decodeSample 0x7F#8 0xF0#8 g).volts.value ∧
      (decodeSample 0x80#8 0x00#8 g).volts.value ≤ (decodeSample b0 b1 g).volts.value)

/-! ### Invariants and whole-machine rules -/

/-- The invariants hold wherever a run starts (70_reset_and_hazards.md R360): after reset, which is itself a
clean-entry state, and in every clean-entry state. -/
def Obligations.InvariantsHoldAfterReset : Prop :=
  BlockInv State.reset ∧ CleanEntry State.reset ∧ ∀ s : State, CleanEntry s → BlockInv s

/-- 42_conversion_sequencer.md R198, laws the spec marks as derived: every step keeps the invariants of the sequencer.
-/
def Obligations.EveryStepKeepsTheSequencerInvariants : Prop :=
  ∀ s s' : State, SequencerInv s → step s = .next s' → SequencerInv s'

/-- 10_state.md R44, 44_initialization.md R269, laws the spec marks as derived: every step keeps the invariants about
written fields. -/
def Obligations.EveryStepKeepsTheWrittenFields : Prop :=
  ∀ s s' : State, WrittenInv s → step s = .next s' → WrittenInv s'

/-- 10_state.md R44: "That fault is unreachable under these rules": in a state that meets the invariants no event of
the hardware reads an unwritten field. -/
def Obligations.UnwrittenFieldsAreNeverRead : Prop :=
  ∀ (s : State) (e : Event) (rest : List Event) (f : BlockField),
    BlockInv s → s.sched = e :: rest → e.hardware = true → step s ≠ .fault (.unwritten f)

/-- 00_scope.md R15: a step adds its output actions after those before it. -/
def Obligations.StepsOnlyAddActions : Prop :=
  ∀ s s' : State, step s = .next s' → ∃ outs, Puts s s' outs

/-- 00_scope.md R17, 10_state.md R36: a step issues at most one transport operation, and the block then is in the state
that waits for its completion; while an operation is outstanding, another is issued only by its completion. -/
def Obligations.OneTransportOperationOutstanding : Prop :=
  ∀ (s s' : State) (e : Event) (rest : List Event) (outs : List Action),
    s.sched = e :: rest → step s = .next s' → Puts s s' outs →
    (outs.filter Action.onTransport).length ≤ 1 ∧
    (e.hardware = true → ∀ x ∈ outs, x.onTransport = true → x.waitsIn = some s'.st) ∧
    (e.hardware = true → s.st.waitsForTransport = true → (∃ x ∈ outs, x.onTransport = true) → e.completes s.st = true)

/-- 20_memory.md R81, R83, 30_encoding.md R113..R115: whatever the step, the writes it issues are the two frames and
its reads are of two bytes, all at the bound device. -/
def Obligations.OnlyTheFramesOfTheSpecAreIssued : Prop :=
  ∀ (s s' : State) (outs : List Action), step s = .next s' → Puts s s' outs →
    (∀ h a bytes, Action.busWrite h a bytes ∈ outs →
      s.hbus = some h ∧ s.haddr = some a ∧
      (bytes = [0x00#8] ∨ ∃ c g, bytes = [0x01#8, highByte (configWord c g), 0x03#8])) ∧
    (∀ h a n, Action.busRead h a n ∈ outs → s.hbus = some h ∧ s.haddr = some a ∧ n = 2)

/-- 10_state.md R40, 70_reset_and_hazards.md R350: a configuration write is issued only with the guard timer not armed:
it was not before the step, or the step is its expiry. -/
def Obligations.CfgWritesOnlyWithTheGuardClear : Prop :=
  ∀ (s s' : State) (outs : List Action), step s = .next s' → Puts s s' outs → ∀ x ∈ outs, x.isCfgWrite = true →
    s'.convPending = false ∧ (s.convPending = false ∨ s.sched.head? = some .timerExpire)

/-- 70_reset_and_hazards.md R351, 42_conversion_sequencer.md R185: the register-select write is issued only by
TimerExpire in CONVERTING, and the result read only by the completion of that write. -/
def Obligations.ResultPhaseOnlyAfterTheWait : Prop :=
  ∀ (s s' : State) (e : Event) (rest : List Event) (outs : List Action),
    s.sched = e :: rest → e.hardware = true → step s = .next s' → Puts s s' outs →
    (∀ h a, Action.busWrite h a [0x00#8] ∈ outs → s.st = .converting ∧ e = .timerExpire ∧ s.convPending = true) ∧
    (∀ h a n, Action.busRead h a n ∈ outs → s.st = .selecting ∧ e = .writeDone (.ok ()))

/-- 10_state.md R58, 70_reset_and_hazards.md R350: while no operation other than a configuration write fails, a
conversion in flight stays covered by the guard timer, and no configuration write is issued while one is in flight. -/
def Obligations.ConversionsInFlightAreGuarded : Prop :=
  ∀ (s s' : State) (e : Event) (rest : List Event) (outs : List Action),
    DeviceCovered s → s.sched = e :: rest → (e.transportError = true → s.st = .cfgWriting) → step s = .next s' →
    Puts s s' outs →
    DeviceCovered s' ∧ ∀ x ∈ outs, x.isCfgWrite = true → s'.dev.pending = false

/-- 10_state.md R32: over the steps of the hardware without a reset, accepted requests and responses balance: one
response for each, in the step that returns to IDLE. -/
def Obligations.OneResponsePerRequest : Prop :=
  ∀ (s s' : State) (e : Event) (rest : List Event) (outs : List Action),
    s.sched = e :: rest → e.hardware = true → e ≠ .reset → step s = .next s' → Puts s s' outs →
    (outs.filter Action.isResponse).length + (if s'.owesResponse = true then 1 else 0) =
      (if s.owesResponse = true then 1 else 0) + (if s.acceptsRequest e = true then 1 else 0)

/-- 60_exceptions.md R302: an error response leaves the block in IDLE with no cancel pending; the handle, the address and
the latches keep their values; nothing is issued. The guard timer is armed only at the end of a configuration write: after
a failure by R302 item 4 and R186, after a cancelled success by R183. -/
def Obligations.ErrorExitFrame : Prop :=
  ∀ (s s' : State) (outs : List Action) (status : Status) (k : ErrStep),
    step s = .next s' → Puts s s' outs → Action.respond (.err status k) ∈ outs →
    s'.st = .idle ∧ s'.cancelPending = false ∧ s'.hv = s.hv ∧ s'.hbus = s.hbus ∧ s'.haddr = s.haddr ∧
    s'.iaddr = s.iaddr ∧ s'.lch = s.lch ∧ s'.lg = s.lg ∧
    (s.st = .cfgWriting → s'.convPending = true) ∧ (s.st ≠ .cfgWriting → s'.convPending = s.convPending) ∧
    (∀ x ∈ outs, x.onTransport = false) ∧
    (∀ code volts uv fs, Action.respond (.measOk code volts uv fs) ∉ outs)

/-- 43_sample_decoder.md R232, R234, 60_exceptions.md R306, R309 item 3: a warning is put out exactly with a successful
response that has its flag set, just before it, and its code is a clipping boundary. -/
def Obligations.WarningsComeWithFullScaleResults : Prop :=
  ∀ (s s' : State) (outs : List Action), step s = .next s' → Puts s s' outs →
    (∀ raw, Action.warn raw ∈ outs →
      (raw = 0x7FF#12 ∨ raw = 0x800#12) ∧
      ∃ code volts uv, outs = [.warn raw, .respond (.measOk code volts uv true)]) ∧
    (∀ code volts uv, Action.respond (.measOk code volts uv true) ∈ outs → ∃ raw, Action.warn raw ∈ outs)

/-- 30_encoding.md R117, R118, 60_exceptions.md R300: the codes of the error responses that a step can put out. -/
def Obligations.StatusAndStepCodes : Prop :=
  (Status.ok.code = 0#3 ∧ Status.transportError.code = 1#3 ∧ Status.deviceNotFound.code = 2#3 ∧
    Status.notInitialized.code = 3#3 ∧ Status.cancelled.code = 4#3) ∧
  (ErrStep.none.code = 0#3 ∧ ErrStep.openBus.code = 1#3 ∧ ErrStep.scanBus.code = 2#3 ∧ ErrStep.cfgWrite.code = 3#3 ∧
    ErrStep.ptrSelect.code = 4#3 ∧ ErrStep.resultRead.code = 5#3) ∧
  ∀ (s s' : State) (outs : List Action) (status : Status) (k : ErrStep),
    step s = .next s' → Puts s s' outs → Action.respond (.err status k) ∈ outs →
    status ≠ .ok ∧ (status = .transportError ↔ k ≠ .none)
end

