-- ==== Sys2Proof/Laws/Decode.lean ====
section
/-! SUPPORT. The small lemmas of the fields and tables that the decoder and the encoder are made of. -/

namespace Sys2Proof

theorem Channel.ofIndex_index (c : Channel) : Channel.ofIndex c.index = some c := by cases c <;> rfl

theorem Channel.ofMux_mux (c : Channel) : Channel.ofMux c.mux = some c := by cases c <;> rfl

theorem Gain.ofIndex_index (g : Gain) : Gain.ofIndex g.index = some g := by cases g <;> rfl

theorem Gain.ofControlBits_controlBits (g : Gain) : Gain.ofControlBits g.controlBits = some g := by cases g <;> rfl

theorem Channel.index_of_ofIndex {i : BitVec 3} {c : Channel} : Channel.ofIndex i = some c → c.index = i := by
  revert i; cases c <;> decide

theorem Channel.mux_of_ofMux {m : BitVec 3} {c : Channel} : Channel.ofMux m = some c → c.mux = m := by
  revert m; cases c <;> decide

theorem Gain.index_of_ofIndex {i : BitVec 3} {g : Gain} : Gain.ofIndex i = some g → g.index = i := by
  revert i; cases g <;> decide

theorem Gain.controlBits_of_ofControlBits {p : BitVec 3} {g : Gain} :
    Gain.ofControlBits p = some g → g.controlBits = p := by
  revert p; cases g <;> decide

/-- Each bit of an INIT word is a bit of `op`, of the address or of the bus number. -/
theorem initWord_getLsbD (bus : BusId) (addr : DevAddr) (i : Nat) :
    (initWord bus addr).getLsbD i =
      if i < 2 then (0b01#2).getLsbD i else if i - 2 < 7 then addr.getLsbD (i - 2) else bus.getLsbD (i - 2 - 7) := by
  have h : (initWord bus addr).getLsbD i = ((bus ++ addr) ++ 0b01#2).getLsbD i := rfl
  simp only [h, BitVec.getLsbD_append]

theorem initWord_op (bus : BusId) (addr : DevAddr) : bits (initWord bus addr) 0 2 = 0b01#2 := by
  ext i hi
  simp only [bits, BitVec.getElem_extractLsb', initWord_getLsbD]
  interval_cases i <;> simp

theorem initWord_addr (bus : BusId) (addr : DevAddr) : bits (initWord bus addr) 2 7 = addr := by
  ext i hi
  simp only [bits, BitVec.getElem_extractLsb', initWord_getLsbD]
  interval_cases i <;> rfl

theorem initWord_bus (bus : BusId) (addr : DevAddr) : bits (initWord bus addr) 9 7 = bus := by
  ext i hi
  simp only [bits, BitVec.getElem_extractLsb', initWord_getLsbD]
  interval_cases i <;> rfl

/-- Each bit of two joined bytes is a bit of one of them. -/
theorem bytes_getLsbD (b0 b1 : Byte) (i : Nat) :
    (b0 ++ b1 : Word16).getLsbD i = if i < 8 then b1.getLsbD i else b0.getLsbD (i - 8) := by
  exact BitVec.getLsbD_append

theorem highByte_append (b0 b1 : Byte) : highByte (b0 ++ b1) = b0 := by
  ext i hi
  simp only [highByte, BitVec.getElem_extractLsb', bytes_getLsbD]
  interval_cases i <;> rfl

theorem lowByte_append (b0 b1 : Byte) : lowByte (b0 ++ b1) = b1 := by
  ext i hi
  simp only [lowByte, BitVec.getElem_extractLsb', bytes_getLsbD]
  interval_cases i <;> rfl

/-- A word is its high byte and its low byte. -/
theorem highByte_lowByte (w : Word16) : (highByte w ++ lowByte w : Word16) = w := by
  ext i hi
  rw [← BitVec.getLsbD_eq_getElem, ← BitVec.getLsbD_eq_getElem, bytes_getLsbD]
  interval_cases i <;> simp [highByte, lowByte]

/-- A command word spells a host command. -/
theorem decode_cmd_cases {w : Word16} {i : Instr} (hd : decode (.cmd w) = .ok i) :
    (∃ c g, i = .measure c g) ∨ (∃ bus addr, i = .init bus addr) ∨ i = .cancel := by
  simp only [decode, decodeCmd, decodeMeasure] at hd
  split at hd
  · split at hd
    · cases hd
    · split at hd <;> cases hd
      exact .inl ⟨_, _, rfl⟩
  · cases hd
    exact .inr (.inl ⟨_, _, rfl⟩)
  · split at hd <;> cases hd
    exact .inr (.inr rfl)
  · cases hd

/-- The operations that are no host commands. -/
def Instr.isInternal : Instr → Bool
  | .measure _ _ => false
  | .init _ _ => false
  | .cancel => false
  | .encode _ _ => true
  | .decode _ _ => true
  | .cfgWrite _ _ => true
  | .wait => true
  | .ptrSelect => true
  | .resultRead => true
  | .busOpen _ => true
  | .busScan _ => true

theorem decodeFrame_internal {bytes : List Byte} {i : Instr} (hd : decodeFrame bytes = .ok i) :
    i.isInternal = true := by
  unfold decodeFrame at hd
  split at hd
  · split at hd <;> cases hd
    rfl
  · split at hd
    · split at hd <;> cases hd
      rfl
    · cases hd
  · cases hd

/-- An internal word spells no host command. -/
theorem decode_internal_isInternal {m : InternalWord} {i : Instr} (hd : decode (.internal m) = .ok i) :
    i.isInternal = true := by
  cases m with
  | cfg w =>
    simp only [decode, decodeInternal] at hd
    split at hd <;> cases hd
    rfl
  | frame bytes => exact decodeFrame_internal hd
  | read n =>
    simp only [decode, decodeInternal] at hd
    split at hd <;> cases hd
    rfl
  | _ => cases hd; rfl

/-- The only spelling of CANCEL on the request port. -/
theorem decode_cmd_cancel {w : Word16} (hd : decode (.cmd w) = .ok .cancel) : w = cancelWord := by
  simp only [decode, decodeCmd, decodeMeasure] at hd
  split at hd
  · split at hd
    · cases hd
    · split at hd <;> cases hd
  · cases hd
  · split at hd
    · cases hd
    · rename_i hop hres
      have hres := congrArg BitVec.toNat (Classical.not_not.mp hres)
      simp only [bits, BitVec.extractLsb'_toNat, Nat.shiftRight_eq_div_pow, BitVec.toNat_ofNat] at hop hres
      have := w.isLt
      exact BitVec.eq_of_toNat_eq (by simp only [cancelWord, BitVec.toNat_ofNat]; omega)
  · cases hd

end Sys2Proof
end

