-- ==== Sys2Proof/Laws/State.lean ====
section
/-! SUPPORT. What each field is after each field update of Machine/Ops.lean. -/

namespace Sys2Proof.Machine.State

section setSt

variable (v : FsmState) (s : State)

@[simp] theorem setSt_st : (s.setSt v).st = v := rfl
@[simp] theorem setSt_hv : (s.setSt v).hv = s.hv := rfl
@[simp] theorem setSt_hbus : (s.setSt v).hbus = s.hbus := rfl
@[simp] theorem setSt_haddr : (s.setSt v).haddr = s.haddr := rfl
@[simp] theorem setSt_iaddr : (s.setSt v).iaddr = s.iaddr := rfl
@[simp] theorem setSt_lch : (s.setSt v).lch = s.lch := rfl
@[simp] theorem setSt_lg : (s.setSt v).lg = s.lg := rfl
@[simp] theorem setSt_convPending : (s.setSt v).convPending = s.convPending := rfl
@[simp] theorem setSt_cancelPending : (s.setSt v).cancelPending = s.cancelPending := rfl
@[simp] theorem setSt_dev : (s.setSt v).dev = s.dev := rfl
@[simp] theorem setSt_req : (s.setSt v).req = s.req := rfl
@[simp] theorem setSt_sched : (s.setSt v).sched = s.sched := rfl
@[simp] theorem setSt_trace : (s.setSt v).trace = s.trace := rfl
@[simp] theorem setSt_draws : (s.setSt v).draws = s.draws := rfl

end setSt

section setHv

variable (v : Bool) (s : State)

@[simp] theorem setHv_st : (s.setHv v).st = s.st := rfl
@[simp] theorem setHv_hv : (s.setHv v).hv = v := rfl
@[simp] theorem setHv_hbus : (s.setHv v).hbus = s.hbus := rfl
@[simp] theorem setHv_haddr : (s.setHv v).haddr = s.haddr := rfl
@[simp] theorem setHv_iaddr : (s.setHv v).iaddr = s.iaddr := rfl
@[simp] theorem setHv_lch : (s.setHv v).lch = s.lch := rfl
@[simp] theorem setHv_lg : (s.setHv v).lg = s.lg := rfl
@[simp] theorem setHv_convPending : (s.setHv v).convPending = s.convPending := rfl
@[simp] theorem setHv_cancelPending : (s.setHv v).cancelPending = s.cancelPending := rfl
@[simp] theorem setHv_dev : (s.setHv v).dev = s.dev := rfl
@[simp] theorem setHv_req : (s.setHv v).req = s.req := rfl
@[simp] theorem setHv_sched : (s.setHv v).sched = s.sched := rfl
@[simp] theorem setHv_trace : (s.setHv v).trace = s.trace := rfl
@[simp] theorem setHv_draws : (s.setHv v).draws = s.draws := rfl

end setHv

section setHbus

variable (h : BusHandle) (s : State)

@[simp] theorem setHbus_st : (s.setHbus h).st = s.st := rfl
@[simp] theorem setHbus_hv : (s.setHbus h).hv = s.hv := rfl
@[simp] theorem setHbus_hbus : (s.setHbus h).hbus = some h := rfl
@[simp] theorem setHbus_haddr : (s.setHbus h).haddr = s.haddr := rfl
@[simp] theorem setHbus_iaddr : (s.setHbus h).iaddr = s.iaddr := rfl
@[simp] theorem setHbus_lch : (s.setHbus h).lch = s.lch := rfl
@[simp] theorem setHbus_lg : (s.setHbus h).lg = s.lg := rfl
@[simp] theorem setHbus_convPending : (s.setHbus h).convPending = s.convPending := rfl
@[simp] theorem setHbus_cancelPending : (s.setHbus h).cancelPending = s.cancelPending := rfl
@[simp] theorem setHbus_dev : (s.setHbus h).dev = s.dev := rfl
@[simp] theorem setHbus_req : (s.setHbus h).req = s.req := rfl
@[simp] theorem setHbus_sched : (s.setHbus h).sched = s.sched := rfl
@[simp] theorem setHbus_trace : (s.setHbus h).trace = s.trace := rfl
@[simp] theorem setHbus_draws : (s.setHbus h).draws = s.draws := rfl

end setHbus

section setHaddr

variable (a : DevAddr) (s : State)

@[simp] theorem setHaddr_st : (s.setHaddr a).st = s.st := rfl
@[simp] theorem setHaddr_hv : (s.setHaddr a).hv = s.hv := rfl
@[simp] theorem setHaddr_hbus : (s.setHaddr a).hbus = s.hbus := rfl
@[simp] theorem setHaddr_haddr : (s.setHaddr a).haddr = some a := rfl
@[simp] theorem setHaddr_iaddr : (s.setHaddr a).iaddr = s.iaddr := rfl
@[simp] theorem setHaddr_lch : (s.setHaddr a).lch = s.lch := rfl
@[simp] theorem setHaddr_lg : (s.setHaddr a).lg = s.lg := rfl
@[simp] theorem setHaddr_convPending : (s.setHaddr a).convPending = s.convPending := rfl
@[simp] theorem setHaddr_cancelPending : (s.setHaddr a).cancelPending = s.cancelPending := rfl
@[simp] theorem setHaddr_dev : (s.setHaddr a).dev = s.dev := rfl
@[simp] theorem setHaddr_req : (s.setHaddr a).req = s.req := rfl
@[simp] theorem setHaddr_sched : (s.setHaddr a).sched = s.sched := rfl
@[simp] theorem setHaddr_trace : (s.setHaddr a).trace = s.trace := rfl
@[simp] theorem setHaddr_draws : (s.setHaddr a).draws = s.draws := rfl

end setHaddr

section setIaddr

variable (a : DevAddr) (s : State)

@[simp] theorem setIaddr_st : (s.setIaddr a).st = s.st := rfl
@[simp] theorem setIaddr_hv : (s.setIaddr a).hv = s.hv := rfl
@[simp] theorem setIaddr_hbus : (s.setIaddr a).hbus = s.hbus := rfl
@[simp] theorem setIaddr_haddr : (s.setIaddr a).haddr = s.haddr := rfl
@[simp] theorem setIaddr_iaddr : (s.setIaddr a).iaddr = some a := rfl
@[simp] theorem setIaddr_lch : (s.setIaddr a).lch = s.lch := rfl
@[simp] theorem setIaddr_lg : (s.setIaddr a).lg = s.lg := rfl
@[simp] theorem setIaddr_convPending : (s.setIaddr a).convPending = s.convPending := rfl
@[simp] theorem setIaddr_cancelPending : (s.setIaddr a).cancelPending = s.cancelPending := rfl
@[simp] theorem setIaddr_dev : (s.setIaddr a).dev = s.dev := rfl
@[simp] theorem setIaddr_req : (s.setIaddr a).req = s.req := rfl
@[simp] theorem setIaddr_sched : (s.setIaddr a).sched = s.sched := rfl
@[simp] theorem setIaddr_trace : (s.setIaddr a).trace = s.trace := rfl
@[simp] theorem setIaddr_draws : (s.setIaddr a).draws = s.draws := rfl

end setIaddr

section latch

variable (c : Channel) (g : Gain) (s : State)

@[simp] theorem latch_st : (s.latch c g).st = s.st := rfl
@[simp] theorem latch_hv : (s.latch c g).hv = s.hv := rfl
@[simp] theorem latch_hbus : (s.latch c g).hbus = s.hbus := rfl
@[simp] theorem latch_haddr : (s.latch c g).haddr = s.haddr := rfl
@[simp] theorem latch_iaddr : (s.latch c g).iaddr = s.iaddr := rfl
@[simp] theorem latch_lch : (s.latch c g).lch = some c := rfl
@[simp] theorem latch_lg : (s.latch c g).lg = some g := rfl
@[simp] theorem latch_convPending : (s.latch c g).convPending = s.convPending := rfl
@[simp] theorem latch_cancelPending : (s.latch c g).cancelPending = s.cancelPending := rfl
@[simp] theorem latch_dev : (s.latch c g).dev = s.dev := rfl
@[simp] theorem latch_req : (s.latch c g).req = s.req := rfl
@[simp] theorem latch_sched : (s.latch c g).sched = s.sched := rfl
@[simp] theorem latch_trace : (s.latch c g).trace = s.trace := rfl
@[simp] theorem latch_draws : (s.latch c g).draws = s.draws := rfl

end latch

section setConvPending

variable (v : Bool) (s : State)

@[simp] theorem setConvPending_st : (s.setConvPending v).st = s.st := rfl
@[simp] theorem setConvPending_hv : (s.setConvPending v).hv = s.hv := rfl
@[simp] theorem setConvPending_hbus : (s.setConvPending v).hbus = s.hbus := rfl
@[simp] theorem setConvPending_haddr : (s.setConvPending v).haddr = s.haddr := rfl
@[simp] theorem setConvPending_iaddr : (s.setConvPending v).iaddr = s.iaddr := rfl
@[simp] theorem setConvPending_lch : (s.setConvPending v).lch = s.lch := rfl
@[simp] theorem setConvPending_lg : (s.setConvPending v).lg = s.lg := rfl
@[simp] theorem setConvPending_convPending : (s.setConvPending v).convPending = v := rfl
@[simp] theorem setConvPending_cancelPending : (s.setConvPending v).cancelPending = s.cancelPending := rfl
@[simp] theorem setConvPending_dev : (s.setConvPending v).dev = s.dev := rfl
@[simp] theorem setConvPending_req : (s.setConvPending v).req = s.req := rfl
@[simp] theorem setConvPending_sched : (s.setConvPending v).sched = s.sched := rfl
@[simp] theorem setConvPending_trace : (s.setConvPending v).trace = s.trace := rfl
@[simp] theorem setConvPending_draws : (s.setConvPending v).draws = s.draws := rfl

end setConvPending

section setCancelPending

variable (v : Bool) (s : State)

@[simp] theorem setCancelPending_st : (s.setCancelPending v).st = s.st := rfl
@[simp] theorem setCancelPending_hv : (s.setCancelPending v).hv = s.hv := rfl
@[simp] theorem setCancelPending_hbus : (s.setCancelPending v).hbus = s.hbus := rfl
@[simp] theorem setCancelPending_haddr : (s.setCancelPending v).haddr = s.haddr := rfl
@[simp] theorem setCancelPending_iaddr : (s.setCancelPending v).iaddr = s.iaddr := rfl
@[simp] theorem setCancelPending_lch : (s.setCancelPending v).lch = s.lch := rfl
@[simp] theorem setCancelPending_lg : (s.setCancelPending v).lg = s.lg := rfl
@[simp] theorem setCancelPending_convPending : (s.setCancelPending v).convPending = s.convPending := rfl
@[simp] theorem setCancelPending_cancelPending : (s.setCancelPending v).cancelPending = v := rfl
@[simp] theorem setCancelPending_dev : (s.setCancelPending v).dev = s.dev := rfl
@[simp] theorem setCancelPending_req : (s.setCancelPending v).req = s.req := rfl
@[simp] theorem setCancelPending_sched : (s.setCancelPending v).sched = s.sched := rfl
@[simp] theorem setCancelPending_trace : (s.setCancelPending v).trace = s.trace := rfl
@[simp] theorem setCancelPending_draws : (s.setCancelPending v).draws = s.draws := rfl

end setCancelPending

section setDev

variable (d : Device) (s : State)

@[simp] theorem setDev_st : (s.setDev d).st = s.st := rfl
@[simp] theorem setDev_hv : (s.setDev d).hv = s.hv := rfl
@[simp] theorem setDev_hbus : (s.setDev d).hbus = s.hbus := rfl
@[simp] theorem setDev_haddr : (s.setDev d).haddr = s.haddr := rfl
@[simp] theorem setDev_iaddr : (s.setDev d).iaddr = s.iaddr := rfl
@[simp] theorem setDev_lch : (s.setDev d).lch = s.lch := rfl
@[simp] theorem setDev_lg : (s.setDev d).lg = s.lg := rfl
@[simp] theorem setDev_convPending : (s.setDev d).convPending = s.convPending := rfl
@[simp] theorem setDev_cancelPending : (s.setDev d).cancelPending = s.cancelPending := rfl
@[simp] theorem setDev_dev : (s.setDev d).dev = d := rfl
@[simp] theorem setDev_req : (s.setDev d).req = s.req := rfl
@[simp] theorem setDev_sched : (s.setDev d).sched = s.sched := rfl
@[simp] theorem setDev_trace : (s.setDev d).trace = s.trace := rfl
@[simp] theorem setDev_draws : (s.setDev d).draws = s.draws := rfl

end setDev

section setReq

variable (q : List Word16) (s : State)

@[simp] theorem setReq_st : (s.setReq q).st = s.st := rfl
@[simp] theorem setReq_hv : (s.setReq q).hv = s.hv := rfl
@[simp] theorem setReq_hbus : (s.setReq q).hbus = s.hbus := rfl
@[simp] theorem setReq_haddr : (s.setReq q).haddr = s.haddr := rfl
@[simp] theorem setReq_iaddr : (s.setReq q).iaddr = s.iaddr := rfl
@[simp] theorem setReq_lch : (s.setReq q).lch = s.lch := rfl
@[simp] theorem setReq_lg : (s.setReq q).lg = s.lg := rfl
@[simp] theorem setReq_convPending : (s.setReq q).convPending = s.convPending := rfl
@[simp] theorem setReq_cancelPending : (s.setReq q).cancelPending = s.cancelPending := rfl
@[simp] theorem setReq_dev : (s.setReq q).dev = s.dev := rfl
@[simp] theorem setReq_req : (s.setReq q).req = q := rfl
@[simp] theorem setReq_sched : (s.setReq q).sched = s.sched := rfl
@[simp] theorem setReq_trace : (s.setReq q).trace = s.trace := rfl
@[simp] theorem setReq_draws : (s.setReq q).draws = s.draws := rfl

end setReq

section setSched

variable (q : List Event) (s : State)

@[simp] theorem setSched_st : (s.setSched q).st = s.st := rfl
@[simp] theorem setSched_hv : (s.setSched q).hv = s.hv := rfl
@[simp] theorem setSched_hbus : (s.setSched q).hbus = s.hbus := rfl
@[simp] theorem setSched_haddr : (s.setSched q).haddr = s.haddr := rfl
@[simp] theorem setSched_iaddr : (s.setSched q).iaddr = s.iaddr := rfl
@[simp] theorem setSched_lch : (s.setSched q).lch = s.lch := rfl
@[simp] theorem setSched_lg : (s.setSched q).lg = s.lg := rfl
@[simp] theorem setSched_convPending : (s.setSched q).convPending = s.convPending := rfl
@[simp] theorem setSched_cancelPending : (s.setSched q).cancelPending = s.cancelPending := rfl
@[simp] theorem setSched_dev : (s.setSched q).dev = s.dev := rfl
@[simp] theorem setSched_req : (s.setSched q).req = s.req := rfl
@[simp] theorem setSched_sched : (s.setSched q).sched = q := rfl
@[simp] theorem setSched_trace : (s.setSched q).trace = s.trace := rfl
@[simp] theorem setSched_draws : (s.setSched q).draws = s.draws := rfl

end setSched

section loseDevice

variable (s : State)

@[simp] theorem loseDevice_st : (s.loseDevice).st = s.st := rfl
@[simp] theorem loseDevice_hv : (s.loseDevice).hv = s.hv := rfl
@[simp] theorem loseDevice_hbus : (s.loseDevice).hbus = s.hbus := rfl
@[simp] theorem loseDevice_haddr : (s.loseDevice).haddr = s.haddr := rfl
@[simp] theorem loseDevice_iaddr : (s.loseDevice).iaddr = s.iaddr := rfl
@[simp] theorem loseDevice_lch : (s.loseDevice).lch = s.lch := rfl
@[simp] theorem loseDevice_lg : (s.loseDevice).lg = s.lg := rfl
@[simp] theorem loseDevice_convPending : (s.loseDevice).convPending = s.convPending := rfl
@[simp] theorem loseDevice_cancelPending : (s.loseDevice).cancelPending = s.cancelPending := rfl
@[simp] theorem loseDevice_dev : (s.loseDevice).dev = Device.unspecified s.draws := rfl
@[simp] theorem loseDevice_req : (s.loseDevice).req = s.req := rfl
@[simp] theorem loseDevice_sched : (s.loseDevice).sched = s.sched := rfl
@[simp] theorem loseDevice_trace : (s.loseDevice).trace = s.trace := rfl
@[simp] theorem loseDevice_draws : (s.loseDevice).draws = s.draws + 1 := rfl

end loseDevice

section emit

variable (a : Action) (s : State)

@[simp] theorem emit_st : (s.emit a).st = s.st := rfl
@[simp] theorem emit_hv : (s.emit a).hv = s.hv := rfl
@[simp] theorem emit_hbus : (s.emit a).hbus = s.hbus := rfl
@[simp] theorem emit_haddr : (s.emit a).haddr = s.haddr := rfl
@[simp] theorem emit_iaddr : (s.emit a).iaddr = s.iaddr := rfl
@[simp] theorem emit_lch : (s.emit a).lch = s.lch := rfl
@[simp] theorem emit_lg : (s.emit a).lg = s.lg := rfl
@[simp] theorem emit_convPending : (s.emit a).convPending = s.convPending := rfl
@[simp] theorem emit_cancelPending : (s.emit a).cancelPending = s.cancelPending := rfl
@[simp] theorem emit_dev : (s.emit a).dev = s.dev := rfl
@[simp] theorem emit_req : (s.emit a).req = s.req := rfl
@[simp] theorem emit_sched : (s.emit a).sched = s.sched := rfl
@[simp] theorem emit_trace : (s.emit a).trace = s.trace ++ [a] := rfl
@[simp] theorem emit_draws : (s.emit a).draws = s.draws := rfl

end emit

section resetBlock

variable (s : State)

@[simp] theorem resetBlock_st : (s.resetBlock).st = .idle := rfl
@[simp] theorem resetBlock_hv : (s.resetBlock).hv = false := rfl
@[simp] theorem resetBlock_hbus : (s.resetBlock).hbus = none := rfl
@[simp] theorem resetBlock_haddr : (s.resetBlock).haddr = none := rfl
@[simp] theorem resetBlock_iaddr : (s.resetBlock).iaddr = none := rfl
@[simp] theorem resetBlock_lch : (s.resetBlock).lch = none := rfl
@[simp] theorem resetBlock_lg : (s.resetBlock).lg = none := rfl
@[simp] theorem resetBlock_convPending : (s.resetBlock).convPending = true := rfl
@[simp] theorem resetBlock_cancelPending : (s.resetBlock).cancelPending = false := rfl
@[simp] theorem resetBlock_dev : (s.resetBlock).dev = s.dev := rfl
@[simp] theorem resetBlock_req : (s.resetBlock).req = s.req := rfl
@[simp] theorem resetBlock_sched : (s.resetBlock).sched = s.sched := rfl
@[simp] theorem resetBlock_trace : (s.resetBlock).trace = s.trace := rfl
@[simp] theorem resetBlock_draws : (s.resetBlock).draws = s.draws := rfl

end resetBlock

end Sys2Proof.Machine.State
end

