-- ==== Sys2Proof/Laws/Ops.lean ====
section
/-! SUPPORT. What the shared operations of Machine/Ops.lean do: the fields after each, and when the reading ones answer a
next state. -/

namespace Sys2Proof.Machine

section withField

variable {α : Type} {f f' : BlockField} {o : Option α} {k : α → Result} {s' : State}

theorem withField_next : withField f o k = .next s' ↔ ∃ a, o = some a ∧ k a = .next s' := by
  cases o <;> simp [withField]

theorem withField_unwritten :
    withField f o k = .fault (.unwritten f') ↔
      (o = none ∧ f = f') ∨ ∃ a, o = some a ∧ k a = .fault (.unwritten f') := by
  cases o <;> simp [withField]

@[simp] theorem withField_some (a : α) : withField f (some a) k = k a := rfl

@[simp] theorem withField_none : withField f none k = .fault (.unwritten f) := rfl

end withField

section mapNext

variable {f : State → State} {r : Result} {s s' : State} {x : Fault}

theorem mapNext_next : mapNext f r = .next s' ↔ ∃ t, r = .next t ∧ s' = f t := by
  cases r <;> simp [mapNext, eq_comm]

theorem mapNext_fault : mapNext f r = .fault x ↔ r = .fault x := by
  cases r <;> simp [mapNext]

@[simp] theorem mapNext_of_next : mapNext f (.next s) = .next (f s) := rfl

end mapNext

section device

variable {bytes : List Byte} {n : Nat} {s s' : State} {h : BusHandle} {a : DevAddr}

theorem writeToDevice_next :
    writeToDevice bytes s = .next s' ↔
      ∃ h a, s.hbus = some h ∧ s.haddr = some a ∧ s' = s.emit (.busWrite h a bytes) := by
  simp only [writeToDevice, withField_next, Host.Outcome.next.injEq]
  exact ⟨fun ⟨h, hh, a, ha, e⟩ => ⟨h, a, hh, ha, e.symm⟩, fun ⟨h, a, hh, ha, e⟩ => ⟨h, hh, a, ha, e.symm⟩⟩

theorem readFromDevice_next :
    readFromDevice n s = .next s' ↔
      ∃ h a, s.hbus = some h ∧ s.haddr = some a ∧ s' = s.emit (.busRead h a n) := by
  simp only [readFromDevice, withField_next, Host.Outcome.next.injEq]
  exact ⟨fun ⟨h, hh, a, ha, e⟩ => ⟨h, a, hh, ha, e.symm⟩, fun ⟨h, a, hh, ha, e⟩ => ⟨h, hh, a, ha, e.symm⟩⟩

theorem writeToDevice_bound (hh : s.hbus = some h) (ha : s.haddr = some a) :
    writeToDevice bytes s = .next (s.emit (.busWrite h a bytes)) := by
  simp [writeToDevice, hh, ha]

theorem readFromDevice_bound (hh : s.hbus = some h) (ha : s.haddr = some a) :
    readFromDevice n s = .next (s.emit (.busRead h a n)) := by
  simp [readFromDevice, hh, ha]

end device

section armGuard

variable (s : State)

@[simp] theorem armGuard_st : (armGuard s).st = s.st := rfl
@[simp] theorem armGuard_hv : (armGuard s).hv = s.hv := rfl
@[simp] theorem armGuard_hbus : (armGuard s).hbus = s.hbus := rfl
@[simp] theorem armGuard_haddr : (armGuard s).haddr = s.haddr := rfl
@[simp] theorem armGuard_iaddr : (armGuard s).iaddr = s.iaddr := rfl
@[simp] theorem armGuard_lch : (armGuard s).lch = s.lch := rfl
@[simp] theorem armGuard_lg : (armGuard s).lg = s.lg := rfl
@[simp] theorem armGuard_convPending : (armGuard s).convPending = true := rfl
@[simp] theorem armGuard_cancelPending : (armGuard s).cancelPending = s.cancelPending := rfl
@[simp] theorem armGuard_dev : (armGuard s).dev = s.dev := rfl
@[simp] theorem armGuard_req : (armGuard s).req = s.req := rfl
@[simp] theorem armGuard_sched : (armGuard s).sched = s.sched := rfl
@[simp] theorem armGuard_trace : (armGuard s).trace = s.trace ++ [.timerArm Config.convDelay] := rfl
@[simp] theorem armGuard_draws : (armGuard s).draws = s.draws := rfl

end armGuard

section finish

variable (r : Response) (s : State)

@[simp] theorem finish_st : (finish r s).st = .idle := rfl
@[simp] theorem finish_hv : (finish r s).hv = s.hv := rfl
@[simp] theorem finish_hbus : (finish r s).hbus = s.hbus := rfl
@[simp] theorem finish_haddr : (finish r s).haddr = s.haddr := rfl
@[simp] theorem finish_iaddr : (finish r s).iaddr = s.iaddr := rfl
@[simp] theorem finish_lch : (finish r s).lch = s.lch := rfl
@[simp] theorem finish_lg : (finish r s).lg = s.lg := rfl
@[simp] theorem finish_convPending : (finish r s).convPending = s.convPending := rfl
@[simp] theorem finish_cancelPending : (finish r s).cancelPending = s.cancelPending := rfl
@[simp] theorem finish_dev : (finish r s).dev = s.dev := rfl
@[simp] theorem finish_req : (finish r s).req = s.req := rfl
@[simp] theorem finish_sched : (finish r s).sched = s.sched := rfl
@[simp] theorem finish_trace : (finish r s).trace = s.trace ++ [.respond r] := rfl
@[simp] theorem finish_draws : (finish r s).draws = s.draws := rfl

end finish

section errorExit

variable (status : Status) (k : ErrStep) (s : State)

@[simp] theorem errorExit_st : (errorExit status k s).st = .idle := rfl
@[simp] theorem errorExit_hv : (errorExit status k s).hv = s.hv := rfl
@[simp] theorem errorExit_hbus : (errorExit status k s).hbus = s.hbus := rfl
@[simp] theorem errorExit_haddr : (errorExit status k s).haddr = s.haddr := rfl
@[simp] theorem errorExit_iaddr : (errorExit status k s).iaddr = s.iaddr := rfl
@[simp] theorem errorExit_lch : (errorExit status k s).lch = s.lch := rfl
@[simp] theorem errorExit_lg : (errorExit status k s).lg = s.lg := rfl
@[simp] theorem errorExit_convPending : (errorExit status k s).convPending = s.convPending := rfl
@[simp] theorem errorExit_cancelPending : (errorExit status k s).cancelPending = false := rfl
@[simp] theorem errorExit_dev : (errorExit status k s).dev = s.dev := rfl
@[simp] theorem errorExit_req : (errorExit status k s).req = s.req := rfl
@[simp] theorem errorExit_sched : (errorExit status k s).sched = s.sched := rfl
@[simp] theorem errorExit_trace : (errorExit status k s).trace = s.trace ++ [.respond (.err status k)] := rfl
@[simp] theorem errorExit_draws : (errorExit status k s).draws = s.draws := rfl

end errorExit

end Sys2Proof.Machine
end

