-- ==== Sys2Proof/Laws/PerInstr.lean ====
section
/-! SUPPORT. Statements made per constructor of Instr: the decoder reads an instruction back from its word. -/

namespace Sys2Proof.Laws.RoundTrip

/-- The word of the instruction decodes to it. -/
def Statement (i : Instr) : Prop := Sys2Proof.decode (Sys2Proof.encode i) = .ok i

theorem measure (c : Channel) (g : Gain) : Statement (.measure c g) := by
  cases c <;> cases g <;> rfl

theorem init (bus : BusId) (addr : DevAddr) : Statement (.init bus addr) := by
  simp [Statement, Sys2Proof.decode, Sys2Proof.encode, decodeCmd, initWord_op, initWord_addr, initWord_bus]

theorem cancel : Statement .cancel := rfl

theorem encode (c : Channel) (g : Gain) : Statement (.encode c g) := by
  cases c <;> cases g <;> rfl

theorem decode (b0 b1 : Byte) : Statement (.decode b0 b1) := by
  simp [Statement, Sys2Proof.decode, Sys2Proof.encode, decodeInternal, highByte_append, lowByte_append]

theorem cfgWrite (c : Channel) (g : Gain) : Statement (.cfgWrite c g) := by
  cases c <;> cases g <;> rfl

theorem wait : Statement .wait := rfl

theorem ptrSelect : Statement .ptrSelect := rfl

theorem resultRead : Statement .resultRead := rfl

theorem busOpen (bus : BusId) : Statement (.busOpen bus) := rfl

theorem busScan (h : BusHandle) : Statement (.busScan h) := rfl

end Sys2Proof.Laws.RoundTrip
end

