-- ==== Sys2Proof/Laws/Step.lean ====
section
/-! SUPPORT. What a step can do, said once: the cases of an operation, of an event and of a step, each with its guard,
its output actions and its next state. Whole-machine claims are proved by cases on these. -/

namespace Sys2Proof.Machine

/-- The ways in which an operation answers a next state, with what it puts out. -/
inductive ExecCase (s : State) : Instr → List Action → State → Prop where
  | measureHeld (c : Channel) (g : Gain) (hst : s.st ≠ .idle) : ExecCase s (.measure c g) [] s
  | measureNoHandle (c : Channel) (g : Gain) (hst : s.st = .idle) (hhv : s.hv = false) :
      ExecCase s (.measure c g) [.respond (.err .notInitialized .none)] (errorExit .notInitialized .none s)
  | measureHold (c : Channel) (g : Gain) (hst : s.st = .idle) (hhv : s.hv = true) (hcp : s.convPending = true) :
      ExecCase s (.measure c g) [] ((s.latch c g).setSt .hold)
  | measureWrite (c : Channel) (g : Gain) (h : BusHandle) (a : DevAddr) (hst : s.st = .idle) (hhv : s.hv = true)
      (hcp : s.convPending = false) (hh : s.hbus = some h) (ha : s.haddr = some a) :
      ExecCase s (.measure c g) [.busWrite h a (cfgFrame (configWord c g))]
        (((s.latch c g).emit (.busWrite h a (cfgFrame (configWord c g)))).setSt .cfgWriting)
  | initHeld (bus : BusId) (addr : DevAddr) (hst : s.st ≠ .idle) : ExecCase s (.init bus addr) [] s
  | initOpen (bus : BusId) (addr : DevAddr) (hst : s.st = .idle) :
      ExecCase s (.init bus addr) [.busOpen bus]
        ((((s.setHv false).setIaddr addr).emit (.busOpen bus)).setSt .opening)
  | cancelNothing (hst : s.st = .idle ∨ s.st = .opening ∨ s.st = .scanning) : ExecCase s .cancel [] s
  | cancelNow (hst : s.st = .hold ∨ s.st = .converting) :
      ExecCase s .cancel [.respond (.err .cancelled .none)] (errorExit .cancelled .none s)
  | cancelLater (hst : s.st = .cfgWriting ∨ s.st = .selecting ∨ s.st = .reading) :
      ExecCase s .cancel [] (s.setCancelPending true)
  | encode (c : Channel) (g : Gain) :
      ExecCase s (.encode c g) [.encoded (configWord c g)] (s.emit (.encoded (configWord c g)))
  | decode (b0 b1 : Byte) (g : Gain) (hg : s.lg = some g) :
      ExecCase s (.decode b0 b1) [.decoded (decodeSample b0 b1 g)] (s.emit (.decoded (decodeSample b0 b1 g)))
  | cfgWrite (c : Channel) (g : Gain) (h : BusHandle) (a : DevAddr) (hcp : s.convPending = false)
      (hhv : s.hv = true) (hh : s.hbus = some h) (ha : s.haddr = some a) :
      ExecCase s (.cfgWrite c g) [.busWrite h a (cfgFrame (configWord c g))]
        (s.emit (.busWrite h a (cfgFrame (configWord c g))))
  | wait (hst : s.st = .converting) : ExecCase s .wait [] s
  | ptrSelect (h : BusHandle) (a : DevAddr) (hh : s.hbus = some h) (ha : s.haddr = some a) :
      ExecCase s .ptrSelect [.busWrite h a selectFrame] (s.emit (.busWrite h a selectFrame))
  | resultRead (h : BusHandle) (a : DevAddr) (hh : s.hbus = some h) (ha : s.haddr = some a) :
      ExecCase s .resultRead [.busRead h a resultLength] (s.emit (.busRead h a resultLength))
  | busOpen (bus : BusId) : ExecCase s (.busOpen bus) [.busOpen bus] (s.emit (.busOpen bus))
  | busScan (h : BusHandle) : ExecCase s (.busScan h) [.busScan h] (s.emit (.busScan h))

theorem exec_cases {i : Instr} {s s' : State} (hx : exec i s = .next s') : ∃ outs, ExecCase s i outs s' := by
  cases i with
  | measure c g =>
    simp only [exec, execMeasure] at hx
    split at hx
    · cases hx; exact ⟨_, .measureHeld c g ‹_›⟩
    · rename_i hst
      have hst : s.st = .idle := Classical.not_not.mp hst
      split at hx
      · cases hx; exact ⟨_, .measureNoHandle c g hst ‹_›⟩
      · split at hx
        · cases hx; exact ⟨_, .measureHold c g hst (by simp_all) ‹_›⟩
        · simp only [issueCfgWrite, mapNext_next, writeToDevice_next] at hx
          obtain ⟨_, ⟨h, a, hh, ha, rfl⟩, rfl⟩ := hx
          exact ⟨_, .measureWrite c g h a hst (by simp_all) (by simp_all) hh ha⟩
  | init bus addr =>
    simp only [exec, execInit] at hx
    split at hx
    · cases hx; exact ⟨_, .initHeld bus addr ‹_›⟩
    · cases hx; exact ⟨_, .initOpen bus addr (Classical.not_not.mp ‹_›)⟩
  | cancel =>
    simp only [exec, execCancel] at hx
    split at hx <;> cases hx
    · exact ⟨_, .cancelNothing (by simp_all)⟩
    · exact ⟨_, .cancelNothing (by simp_all)⟩
    · exact ⟨_, .cancelNothing (by simp_all)⟩
    · exact ⟨_, .cancelNow (by simp_all)⟩
    · exact ⟨_, .cancelNow (by simp_all)⟩
    · exact ⟨_, .cancelLater (by simp_all)⟩
    · exact ⟨_, .cancelLater (by simp_all)⟩
    · exact ⟨_, .cancelLater (by simp_all)⟩
  | encode c g => cases hx; exact ⟨_, .encode c g⟩
  | decode b0 b1 =>
    simp only [exec, execDecode, withField_next, Host.Outcome.next.injEq] at hx
    obtain ⟨g, hg, rfl⟩ := hx
    exact ⟨_, .decode b0 b1 g hg⟩
  | cfgWrite c g =>
    simp only [exec, execCfgWrite, issueCfgWrite] at hx
    split at hx
    · obtain ⟨h, a, hh, ha, rfl⟩ := writeToDevice_next.mp hx
      rename_i hp
      exact ⟨_, .cfgWrite c g h a hp.1 hp.2 hh ha⟩
    · cases hx
  | wait =>
    simp only [exec, execWait] at hx
    split at hx
    · cases hx; exact ⟨_, .wait ‹_›⟩
    · cases hx
  | ptrSelect =>
    obtain ⟨h, a, hh, ha, rfl⟩ := writeToDevice_next.mp hx
    exact ⟨_, .ptrSelect h a hh ha⟩
  | resultRead =>
    obtain ⟨h, a, hh, ha, rfl⟩ := readFromDevice_next.mp hx
    exact ⟨_, .resultRead h a hh ha⟩
  | busOpen bus => cases hx; exact ⟨_, .busOpen bus⟩
  | busScan h => cases hx; exact ⟨_, .busScan h⟩

/-- The ways in which an event is consumed, from the state `s` in which it is no longer in the environment's list. -/
inductive EventCase (s : State) : Event → List Action → State → Prop where
  | host (w : Word16) (ws : List Word16) (i : Instr) (outs : List Action) (s' : State) (hr : s.req = w :: ws)
      (hd : decode (.cmd w) = .ok i) (hx : ExecCase (takeRequest i s) i outs s') : EventCase s .host outs s'
  | issue (m : InternalWord) (i : Instr) (outs : List Action) (s' : State)
      (hd : decode (.internal m) = .ok i) (hx : ExecCase s i outs s') : EventCase s (.issue m) outs s'
  | openOk (h : BusHandle) (hst : s.st = .opening) :
      EventCase s (.openDone (.ok h)) [.busScan h] (((s.setHbus h).emit (.busScan h)).setSt .scanning)
  | openErr (hst : s.st = .opening) :
      EventCase s (.openDone .err) [.respond (.err .transportError .openBus)]
        (errorExit .transportError .openBus s.loseDevice)
  | scanFound (a : DevAddr) (present : List DevAddr) (hst : s.st = .scanning) (hi : s.iaddr = some a)
      (hm : a ∈ present) :
      EventCase s (.scanDone (.ok present)) [.respond .initOk] (finish .initOk ((s.setHaddr a).setHv true))
  | scanAbsent (a : DevAddr) (present : List DevAddr) (hst : s.st = .scanning) (hi : s.iaddr = some a)
      (hm : a ∉ present) :
      EventCase s (.scanDone (.ok present)) [.respond (.err .deviceNotFound .none)]
        (errorExit .deviceNotFound .none s)
  | scanErr (hst : s.st = .scanning) :
      EventCase s (.scanDone .err) [.respond (.err .transportError .scanBus)]
        (errorExit .transportError .scanBus s.loseDevice)
  | cfgOk (c : Channel) (g : Gain) (hst : s.st = .cfgWriting) (hc : s.lch = some c) (hg : s.lg = some g)
      (hxp : s.cancelPending = false) :
      EventCase s (.writeDone (.ok ())) [.timerArm Config.convDelay]
        ((armGuard (s.setDev (deviceConfigured (configWord c g)))).setSt .converting)
  | cfgOkCancelled (c : Channel) (g : Gain) (hst : s.st = .cfgWriting) (hc : s.lch = some c) (hg : s.lg = some g)
      (hxp : s.cancelPending = true) :
      EventCase s (.writeDone (.ok ())) [.timerArm Config.convDelay, .respond (.err .cancelled .none)]
        (errorExit .cancelled .none (armGuard (s.setDev (deviceConfigured (configWord c g)))))
  | cfgErr (hst : s.st = .cfgWriting) :
      EventCase s (.writeDone .err) [.timerArm Config.convDelay, .respond (.err .transportError .cfgWrite)]
        (errorExit .transportError .cfgWrite (armGuard s.loseDevice))
  | selectOk (h : BusHandle) (a : DevAddr) (hst : s.st = .selecting) (hxp : s.cancelPending = false)
      (hh : s.hbus = some h) (ha : s.haddr = some a) :
      EventCase s (.writeDone (.ok ())) [.busRead h a resultLength]
        (((s.setDev { s.dev with ptr := Config.regConversion }).emit (.busRead h a resultLength)).setSt .reading)
  | selectOkCancelled (hst : s.st = .selecting) (hxp : s.cancelPending = true) :
      EventCase s (.writeDone (.ok ())) [.respond (.err .cancelled .none)]
        (errorExit .cancelled .none (s.setDev { s.dev with ptr := Config.regConversion }))
  | selectErr (hst : s.st = .selecting) :
      EventCase s (.writeDone .err) [.respond (.err .transportError .ptrSelect)]
        (errorExit .transportError .ptrSelect s.loseDevice)
  | readOkWarn (b0 b1 : Byte) (g : Gain) (hst : s.st = .reading) (hxp : s.cancelPending = false)
      (hg : s.lg = some g) (hf : (decodeSample b0 b1 g).fs = true) :
      EventCase s (.readDone (.ok [b0, b1]))
        [.warn (decodeSample b0 b1 g).raw,
          .respond (.measOk (decodeSample b0 b1 g).code (decodeSample b0 b1 g).volts (decodeSample b0 b1 g).uv true)]
        (deliverSample (decodeSample b0 b1 g) s)
  | readOk (b0 b1 : Byte) (g : Gain) (hst : s.st = .reading) (hxp : s.cancelPending = false)
      (hg : s.lg = some g) (hf : (decodeSample b0 b1 g).fs = false) :
      EventCase s (.readDone (.ok [b0, b1]))
        [.respond (.measOk (decodeSample b0 b1 g).code (decodeSample b0 b1 g).volts (decodeSample b0 b1 g).uv false)]
        (deliverSample (decodeSample b0 b1 g) s)
  | readOkCancelled (b0 b1 : Byte) (hst : s.st = .reading) (hxp : s.cancelPending = true) :
      EventCase s (.readDone (.ok [b0, b1])) [.respond (.err .cancelled .none)] (errorExit .cancelled .none s)
  | readErr (hst : s.st = .reading) :
      EventCase s (.readDone .err) [.respond (.err .transportError .resultRead)]
        (errorExit .transportError .resultRead s.loseDevice)
  | expireConverting (h : BusHandle) (a : DevAddr) (hst : s.st = .converting) (hcp : s.convPending = true)
      (hh : s.hbus = some h) (ha : s.haddr = some a) :
      EventCase s .timerExpire [.busWrite h a selectFrame]
        ((((s.setConvPending false).setDev { s.dev with pending := false }).emit
          (.busWrite h a selectFrame)).setSt .selecting)
  | expireHold (c : Channel) (g : Gain) (h : BusHandle) (a : DevAddr) (hst : s.st = .hold)
      (hcp : s.convPending = true) (hc : s.lch = some c) (hg : s.lg = some g) (hh : s.hbus = some h)
      (ha : s.haddr = some a) :
      EventCase s .timerExpire [.busWrite h a (cfgFrame (configWord c g))]
        ((((s.setConvPending false).setDev { s.dev with pending := false }).emit
          (.busWrite h a (cfgFrame (configWord c g)))).setSt .cfgWriting)
  | expire (hst : s.st = .idle ∨ s.st = .opening ∨ s.st = .scanning) (hcp : s.convPending = true) :
      EventCase s .timerExpire [] ((s.setConvPending false).setDev { s.dev with pending := false })
  | conversionEnd (hp : s.dev.pending = true) :
      EventCase s .conversionEnd [] (s.setDev { s.dev with pending := false })
  | reset :
      EventCase s .reset [.timerArm Config.convDelay] ((s.resetBlock.loseDevice).emit (.timerArm Config.convDelay))

theorem onWriteDone_cases {r : Reply Unit} {s s' : State} (hx : onWriteDone r s = .next s') :
    ∃ outs, EventCase s (.writeDone r) outs s' := by
  simp only [onWriteDone] at hx
  split at hx
  · rename_i hst
    rcases r with ⟨⟨⟩⟩ | _
    · simp only [onCfgWriteDone, withField_next] at hx
      obtain ⟨c, hc, g, hg, hx⟩ := hx
      split at hx <;> cases hx
      · exact ⟨_, .cfgOkCancelled c g hst hc hg ‹_›⟩
      · exact ⟨_, .cfgOk c g hst hc hg (by simp_all)⟩
    · cases hx; exact ⟨_, .cfgErr hst⟩
  · split at hx
    · rename_i hst
      rcases r with ⟨⟨⟩⟩ | _
      · simp only [onPtrSelectDone] at hx
        split at hx
        · cases hx; exact ⟨_, .selectOkCancelled hst ‹_›⟩
        · simp only [issueResultRead, mapNext_next, readFromDevice_next] at hx
          obtain ⟨_, ⟨h, a, hh, ha, rfl⟩, rfl⟩ := hx
          exact ⟨_, .selectOk h a hst (by simp_all) hh ha⟩
      · cases hx; exact ⟨_, .selectErr hst⟩
    · cases hx

theorem onReadDone_cases {r : Reply (List Byte)} {s s' : State} (hx : onReadDone r s = .next s') :
    ∃ outs, EventCase s (.readDone r) outs s' := by
  simp only [onReadDone] at hx
  split at hx
  · rename_i hst
    split at hx
    · rename_i b0 b1
      split at hx
      · cases hx; exact ⟨_, .readOkCancelled b0 b1 hst ‹_›⟩
      · simp only [withField_next, Host.Outcome.next.injEq] at hx
        obtain ⟨g, hg, rfl⟩ := hx
        cases hf : (decodeSample b0 b1 g).fs
        · exact ⟨_, .readOk b0 b1 g hst (by simp_all) hg hf⟩
        · exact ⟨_, .readOkWarn b0 b1 g hst (by simp_all) hg hf⟩
    · cases hx
    · cases hx; exact ⟨_, .readErr hst⟩
  · cases hx

theorem onTimerExpire_cases {s s' : State} (hx : onTimerExpire s = .next s') :
    ∃ outs, EventCase s .timerExpire outs s' := by
  simp only [onTimerExpire] at hx
  split at hx
  · cases hx
  · rename_i hcp
    have hcp : s.convPending = true := by simpa using hcp
    split at hx
    · rename_i hst
      simp only [issuePtrSelect, mapNext_next, writeToDevice_next] at hx
      obtain ⟨_, ⟨h, a, hh, ha, rfl⟩, rfl⟩ := hx
      exact ⟨_, .expireConverting h a hst hcp hh ha⟩
    · rename_i hst
      simp only [withField_next, issueCfgWrite, mapNext_next, writeToDevice_next] at hx
      obtain ⟨c, hc, g, hg, _, ⟨h, a, hh, ha, rfl⟩, rfl⟩ := hx
      exact ⟨_, .expireHold c g h a hst hcp hc hg hh ha⟩
    · cases hx; exact ⟨_, .expire (by simp_all) hcp⟩
    · cases hx; exact ⟨_, .expire (by simp_all) hcp⟩
    · cases hx; exact ⟨_, .expire (by simp_all) hcp⟩
    all_goals cases hx

theorem consume_cases {e : Event} {s s' : State} (hx : consume e s = .next s') :
    ∃ outs, EventCase s e outs s' := by
  cases e with
  | host =>
    simp only [consume, onHost] at hx
    split at hx
    · cases hx
    · split at hx
      · obtain ⟨outs, hc⟩ := exec_cases hx
        exact ⟨outs, .host _ _ _ outs s' ‹_› ‹_› hc⟩
      · cases hx
  | openDone r =>
    simp only [consume, onOpenDone] at hx
    split at hx
    · cases r <;> cases hx
      · exact ⟨_, .openOk _ ‹_›⟩
      · exact ⟨_, .openErr ‹_›⟩
    · cases hx
  | scanDone r =>
    simp only [consume, onScanDone] at hx
    split at hx
    · cases r with
      | ok present =>
        simp only [withField_next] at hx
        obtain ⟨a, hi, hx⟩ := hx
        split at hx <;> cases hx
        · exact ⟨_, .scanFound a present ‹_› hi ‹_›⟩
        · exact ⟨_, .scanAbsent a present ‹_› hi ‹_›⟩
      | err => cases hx; exact ⟨_, .scanErr ‹_›⟩
    · cases hx
  | writeDone r => exact onWriteDone_cases hx
  | readDone r => exact onReadDone_cases hx
  | timerExpire => exact onTimerExpire_cases hx
  | reset => cases hx; exact ⟨_, .reset⟩
  | conversionEnd =>
    simp only [consume, onConversionEnd] at hx
    split at hx
    · cases hx; exact ⟨_, .conversionEnd ‹_›⟩
    · cases hx
  | issue m =>
    simp only [consume, onIssue] at hx
    split at hx
    · obtain ⟨outs, hc⟩ := exec_cases hx
      exact ⟨outs, .issue m _ outs s' ‹_› hc⟩
    · cases hx

/-- What a step can do. -/
theorem step_cases {s s' : State} (hx : step s = .next s') :
    ∃ e rest outs, s.sched = e :: rest ∧ EventCase (s.setSched rest) e outs s' := by
  simp only [step] at hx
  split at hx
  · cases hx
  · obtain ⟨outs, hc⟩ := consume_cases hx
    exact ⟨_, _, outs, ‹_›, hc⟩

/-- The step on an offered event is the consumption of that event. -/
@[simp] theorem step_offer (e : Event) (s : State) : step (s.offer e) = consume e s := rfl

@[simp] theorem takeRequest_st (i : Instr) (s : State) : (takeRequest i s).st = s.st := by
  simp only [takeRequest]; split <;> rfl
@[simp] theorem takeRequest_hv (i : Instr) (s : State) : (takeRequest i s).hv = s.hv := by
  simp only [takeRequest]; split <;> rfl
@[simp] theorem takeRequest_hbus (i : Instr) (s : State) : (takeRequest i s).hbus = s.hbus := by
  simp only [takeRequest]; split <;> rfl
@[simp] theorem takeRequest_haddr (i : Instr) (s : State) : (takeRequest i s).haddr = s.haddr := by
  simp only [takeRequest]; split <;> rfl
@[simp] theorem takeRequest_iaddr (i : Instr) (s : State) : (takeRequest i s).iaddr = s.iaddr := by
  simp only [takeRequest]; split <;> rfl
@[simp] theorem takeRequest_lch (i : Instr) (s : State) : (takeRequest i s).lch = s.lch := by
  simp only [takeRequest]; split <;> rfl
@[simp] theorem takeRequest_lg (i : Instr) (s : State) : (takeRequest i s).lg = s.lg := by
  simp only [takeRequest]; split <;> rfl
@[simp] theorem takeRequest_convPending (i : Instr) (s : State) : (takeRequest i s).convPending = s.convPending := by
  simp only [takeRequest]; split <;> rfl
@[simp] theorem takeRequest_cancelPending (i : Instr) (s : State) :
    (takeRequest i s).cancelPending = s.cancelPending := by
  simp only [takeRequest]; split <;> rfl
@[simp] theorem takeRequest_dev (i : Instr) (s : State) : (takeRequest i s).dev = s.dev := by
  simp only [takeRequest]; split <;> rfl
@[simp] theorem takeRequest_trace (i : Instr) (s : State) : (takeRequest i s).trace = s.trace := by
  simp only [takeRequest]; split <;> rfl

@[simp] theorem deliverSample_st (d : Sample) (s : State) : (deliverSample d s).st = .idle := rfl
@[simp] theorem deliverSample_hv (d : Sample) (s : State) : (deliverSample d s).hv = s.hv := by
  simp only [deliverSample]; split <;> rfl
@[simp] theorem deliverSample_hbus (d : Sample) (s : State) : (deliverSample d s).hbus = s.hbus := by
  simp only [deliverSample]; split <;> rfl
@[simp] theorem deliverSample_haddr (d : Sample) (s : State) : (deliverSample d s).haddr = s.haddr := by
  simp only [deliverSample]; split <;> rfl
@[simp] theorem deliverSample_iaddr (d : Sample) (s : State) : (deliverSample d s).iaddr = s.iaddr := by
  simp only [deliverSample]; split <;> rfl
@[simp] theorem deliverSample_lch (d : Sample) (s : State) : (deliverSample d s).lch = s.lch := by
  simp only [deliverSample]; split <;> rfl
@[simp] theorem deliverSample_lg (d : Sample) (s : State) : (deliverSample d s).lg = s.lg := by
  simp only [deliverSample]; split <;> rfl
@[simp] theorem deliverSample_convPending (d : Sample) (s : State) :
    (deliverSample d s).convPending = s.convPending := by
  simp only [deliverSample]; split <;> rfl
@[simp] theorem deliverSample_cancelPending (d : Sample) (s : State) :
    (deliverSample d s).cancelPending = s.cancelPending := by
  simp only [deliverSample]; split <;> rfl
@[simp] theorem deliverSample_dev (d : Sample) (s : State) : (deliverSample d s).dev = s.dev := by
  simp only [deliverSample]; split <;> rfl
theorem deliverSample_trace_warn {d : Sample} (s : State) (hf : d.fs = true) :
    (deliverSample d s).trace = s.trace ++ [.warn d.raw, .respond (.measOk d.code d.volts d.uv true)] := by
  simp [deliverSample, hf]
theorem deliverSample_trace_plain {d : Sample} (s : State) (hf : d.fs = false) :
    (deliverSample d s).trace = s.trace ++ [.respond (.measOk d.code d.volts d.uv false)] := by
  simp [deliverSample, hf]

/-- The actions of a case are what it adds to the trace. -/
theorem ExecCase.trace {s s' : State} {i : Instr} {outs : List Action} (h : ExecCase s i outs s') :
    s'.trace = s.trace ++ outs := by
  cases h <;> simp

theorem EventCase.trace {s s' : State} {e : Event} {outs : List Action} (h : EventCase s e outs s') :
    s'.trace = s.trace ++ outs := by
  cases h with
  | host w ws i _ _ hr hd hx => simpa using hx.trace
  | issue m i _ _ hd hx => exact hx.trace
  | readOkWarn b0 b1 g hst hxp hg hf => exact deliverSample_trace_warn s hf
  | readOk b0 b1 g hst hxp hg hf => exact deliverSample_trace_plain s hf
  | _ => simp

theorem FsmState.onBus_iff {st : FsmState} :
    st.onBus = true ↔ st = .cfgWriting ∨ st = .selecting ∨ st = .reading := by
  cases st <;> simp [FsmState.onBus]

theorem FsmState.waitsForTransport_iff {st : FsmState} :
    st.waitsForTransport = true ↔ st = .opening ∨ st = .scanning ∨ st.onBus = true := by
  cases st <;> simp [FsmState.waitsForTransport, FsmState.onBus]

/-- The event that completes a state's operation belongs to a state that has one outstanding. -/
theorem Event.waitsForTransport_of_completes {e : Event} {st : FsmState} (h : e.completes st = true) :
    st.waitsForTransport = true := by
  cases e <;> cases st <;> simp_all [Event.completes, FsmState.waitsForTransport]

theorem FsmState.measuring_iff {st : FsmState} :
    st.measuring = true ↔
      st = .hold ∨ st = .cfgWriting ∨ st = .converting ∨ st = .selecting ∨ st = .reading := by
  cases st <;> simp [FsmState.measuring]

/-- What a step can do, with its output actions named. -/
theorem step_cases_puts {s s' : State} {outs : List Action} (hx : step s = .next s') (hp : Puts s s' outs) :
    ∃ e rest, s.sched = e :: rest ∧ EventCase (s.setSched rest) e outs s' := by
  obtain ⟨e, rest, outs', hs, hc⟩ := step_cases hx
  have : outs' = outs := List.append_cancel_left (hc.trace.symm.trans hp)
  exact ⟨e, rest, hs, this ▸ hc⟩

end Sys2Proof.Machine
end

