-- ==== Sys2Proof/Tests/Slice0.lean ====
section
/-! SUPPORT. Tests: the spec's own words and vectors (spec/95_test_vectors.md; the id of the vector stands at each test),
and for every statement with hypotheses a witness that meets them. -/

namespace Sys2Proof.Tests

open Sys2Proof.Machine

/-! ### Decoding: words written out from the encoding strings of spec/30_encoding.md -/

/-- CV5, CV6, CV7, CV8, CV9: `00000000gggccc00`. -/
theorem test_decode_measure :
    decode (.cmd 0b0000000000000000#16) = .ok (.measure .zero .twoThirds) ∧
    decode (.cmd 0b0000000000100000#16) = .ok (.measure .zero .one) ∧
    decode (.cmd 0b0000000010110100#16) = .ok (.measure .diff23 .sixteen) ∧
    decode (.cmd 0b0000000010001000#16) = .ok (.measure .two .eight) ∧
    decode (.cmd 0b0000000001100100#16) = .ok (.measure .one .four) := ⟨rfl, rfl, rfl, rfl, rfl⟩

/-- CV1, CV2, CV3, CV4: `bbbbbbbaaaaaaa01`. -/
theorem test_decode_init :
    decode (.cmd 0x0321#16) = .ok (.init 1#7 0x48#7) ∧ decode (.cmd 0x0325#16) = .ok (.init 1#7 0x49#7) ∧
    decode (.cmd 0x0001#16) = .ok (.init 0#7 0#7) ∧ decode (.cmd 0xFFFD#16) = .ok (.init 127#7 0x7F#7) :=
  ⟨rfl, rfl, rfl, rfl⟩

/-- CV10. -/
theorem test_decode_cancel : decode (.cmd 0x0002#16) = .ok .cancel := rfl

/-- CV11 to CV16, with the name of each refusal. -/
theorem test_decode_reserved :
    decode (.cmd 0x0003#16) = .error .reservedOp ∧ decode (.cmd 0x0018#16) = .error (.channelIndex 6#3) ∧
    decode (.cmd 0x00E0#16) = .error (.gainIndex 7#3) ∧ decode (.cmd 0x0100#16) = .error .reservedBits ∧
    decode (.cmd 0x0006#16) = .error .reservedBits ∧ decode (.cmd 0xFF1C#16) = .error .reservedBits :=
  ⟨rfl, rfl, rfl, rfl, rfl, rfl⟩

/-- EV1 to EV4, `1mmmppp100000011`. -/
theorem test_decode_encode :
    decode (.internal (.cfg 0b1100001100000011#16)) = .ok (.encode .zero .one) ∧
    decode (.internal (.cfg 0b1000000100000011#16)) = .ok (.encode .diff01 .twoThirds) ∧
    decode (.internal (.cfg 0b1111101100000011#16)) = .ok (.encode .three .sixteen) ∧
    decode (.internal (.cfg 0b1011101100000011#16)) = .ok (.encode .diff23 .sixteen) := ⟨rfl, rfl, rfl, rfl⟩

/-- F-CONV `rrrrrrrrrrrrxxxx` (R112), the bytes of DV1. -/
theorem test_decode_decode : decode (.internal (.conv 0b0111111111110000#16)) = .ok (.decode 0x7F#8 0xF0#8) := rfl

/-- F-W3 (R113), the frames of EV4 and EV5. -/
theorem test_decode_cfg_write :
    decode (.internal (.frame [0x01#8, 0xBB#8, 0x03#8])) = .ok (.cfgWrite .diff23 .sixteen) ∧
    decode (.internal (.frame [0x01#8, 0xE9#8, 0x03#8])) = .ok (.cfgWrite .two .eight) := ⟨rfl, rfl⟩

/-- F-W1 (R114), F-R2 (R115), and the operations without a frame (R184, R265, R266). -/
theorem test_decode_other_internal :
    decode (.internal (.frame [0b00000000#8])) = .ok .ptrSelect ∧ decode (.internal (.read 2)) = .ok .resultRead ∧
    decode (.internal .timer) = .ok .wait ∧ decode (.internal (.openCall 1#7)) = .ok (.busOpen 1#7) ∧
    decode (.internal (.scanCall ⟨5⟩)) = .ok (.busScan ⟨5⟩) := ⟨rfl, rfl, rfl, rfl, rfl⟩

/-- R127, R129, R130: words the block never emits. -/
theorem test_decode_internal_reserved :
    decode (.internal (.cfg 0x4303#16)) = .error .cfgFixedBits ∧
    decode (.internal (.cfg 0xC203#16)) = .error .cfgFixedBits ∧
    decode (.internal (.cfg 0xC302#16)) = .error .cfgFixedBits ∧
    decode (.internal (.cfg 0x9303#16)) = .error (.muxNotEmitted 1#3) ∧
    decode (.internal (.cfg 0xCD03#16)) = .error (.pgaNotEmitted 6#3) ∧
    decode (.internal (.frame [0x02#8])) = .error (.pointerNotEmitted 2#8) ∧
    decode (.internal (.frame [0x00#8, 0xC3#8, 0x03#8])) = .error (.pointerNotEmitted 0#8) ∧
    decode (.internal (.frame [0x01#8, 0xC3#8])) = .error (.frameLength 2) ∧
    decode (.internal (.read 1)) = .error (.readLength 1) := ⟨rfl, rfl, rfl, rfl, rfl, rfl, rfl, rfl, rfl⟩

/-- The rows of the opcode table whose words are unambiguous, numbered as the table numbers them. -/
theorem test_table_words :
    decodeTableWord 16 0x0020 = some (.measure .zero .one) ∧ decodeTableWord 16 0x0321 = some (.init 1#7 0x48#7) ∧
    decodeTableWord 16 0x0002 = some .cancel ∧ decodeTableWord 16 0x8103 = some (.encode .diff01 .twoThirds) ∧
    decodeTableWord 24 0x018103 = some (.cfgWrite .diff01 .twoThirds) ∧ decodeTableWord 8 0x00 = some .ptrSelect ∧
    decodeTableWord 0 0 = some .wait ∧ decodeTableWord 16 0x0003 = none ∧ decodeTableWord 24 0x028103 = none :=
  ⟨rfl, rfl, rfl, rfl, rfl, rfl, rfl, rfl, rfl⟩

/-- R131, R132. -/
theorem test_assembly :
    AsmLine.initDefault.word = 0x0321#16 ∧ (AsmLine.initBus 3#7).word = 0x0721#16 ∧
    (AsmLine.measure .two .eight).word = 0x0088#16 ∧ AsmLine.cancel.word = 0x0002#16 := ⟨rfl, rfl, rfl, rfl⟩

/-! ### Well-formedness: an ill-formed term for each check -/

/-- MEASURE: a reserved bit, a channel index of 6, a gain index of 6, another `op`. -/
theorem test_ill_formed_measure :
    isMeasureWord 0x0100#16 = false ∧ isMeasureWord 0x0018#16 = false ∧ isMeasureWord 0x00C0#16 = false ∧
    isMeasureWord 0x0001#16 = false ∧ isMeasureWord 0x00B4#16 = true := by decide

/-- INIT and CANCEL: another `op`, a reserved bit. -/
theorem test_ill_formed_init_cancel :
    isInitWord 0x0323#16 = false ∧ isInitWord 0xFFFD#16 = true ∧ isCancelWord 0x0006#16 = false ∧
    isCancelWord 0x8002#16 = false ∧ isCancelWord 0x0002#16 = true := by decide

/-- Configuration words: bit 15, bit 8, the low byte, each unused `mux` and `pga`. -/
theorem test_ill_formed_cfg :
    isCfgWord 0x4303#16 = false ∧ isCfgWord 0xC203#16 = false ∧ isCfgWord 0xC302#16 = false ∧
    isCfgWord 0x9303#16 = false ∧ isCfgWord 0xA303#16 = false ∧ isCfgWord 0xCD03#16 = false ∧
    isCfgWord 0xCF03#16 = false ∧ isCfgWord 0xC303#16 = true := by decide

/-- Frames and reads: the pointer, the length, the word within. -/
theorem test_ill_formed_frames :
    (OpWord.internal (.frame [0x01#8])).wellFormed = false ∧ (OpWord.internal (.frame [])).wellFormed = false ∧
    (OpWord.internal (.frame [0x00#8, 0xC3#8, 0x03#8])).wellFormed = false ∧
    (OpWord.internal (.frame [0x01#8, 0xC3#8, 0x02#8])).wellFormed = false ∧
    (OpWord.internal (.frame [0x01#8, 0xC3#8])).wellFormed = false ∧
    (OpWord.internal (.read 3)).wellFormed = false ∧ (OpWord.cmd 0x0003#16).wellFormed = false := by decide

/-! ### Datapath -/

/-- EV5 to EV8. -/
theorem test_encode :
    configWord .two .eight = 0xE903#16 ∧ configWord .one .four = 0xD703#16 ∧
    configWord .zero .twoThirds = 0xC103#16 ∧ configWord .three .two = 0xF503#16 := by decide

/-- 10_state.md R50, the column `f64(FS[g])`. -/
theorem test_full_scale_volts :
    fullScaleVolts .twoThirds = Binary64.hex false 0x89374bc6a7efa 2 ∧
    fullScaleVolts .one = Binary64.hex false 0x0624dd2f1a9fc 2 ∧
    fullScaleVolts .sixteen = Binary64.hex false 0x0624dd2f1a9fc (-2) := by decide

/-- DV1, DV2: both clipping boundaries. -/
theorem test_decode_full_scale :
    decodeSample 0x7F#8 0xF0#8 .one =
      { raw := 0x7FF#12, code := 0x07FF#16, volts := Binary64.hex false 0x0604189374bc7 2, uv := 0x3E7830#24,
        fs := true } ∧
    decodeSample 0x80#8 0x00#8 .twoThirds =
      { raw := 0x800#12, code := 0xF800#16, volts := Binary64.hex true 0x89374bc6a7efa 2, uv := 0xA24000#24,
        fs := true } := by decide

/-- DV16, DV10, DV15: a positive zero, a negative code with a nonzero low nibble, and the code whose voltage is not the
binary64 of its microvolts (R241). -/
theorem test_decode_corners :
    decodeSample 0x00#8 0x0F#8 .twoThirds =
      { raw := 0#12, code := 0#16, volts := .finite false 0 (-1074), uv := 0#24, fs := false } ∧
    decodeSample 0xAB#8 0xCD#8 .four =
      { raw := 0xABC#12, code := 0xFABC#16, volts := Binary64.hex true 0x5916872b020c5 (-1), uv := 0xF5B730#24,
        fs := false } ∧
    decodeSample 0x80#8 0x20#8 .one =
      { raw := 0x802#12, code := 0xF802#16, volts := Binary64.hex true 0x05e353f7ced92 2, uv := 0xC18FA0#24,
        fs := false } := by decide

/-- Rounding: a tie goes to the even significand on both sides, a carry moves the exponent, an overflow is infinite, a
value below half the least subnormal is zero (IEEE 754). -/
theorem test_rounding :
    Binary64.round false (2 ^ 53 + 1) 1 0 = .finite false (2 ^ 52) 1 ∧
    Binary64.round false (2 ^ 53 + 3) 1 0 = .finite false (2 ^ 52 + 2) 1 ∧
    Binary64.round true (2 ^ 54 - 1) 1 0 = .finite true (2 ^ 52) 2 ∧
    Binary64.round false 1 1 1024 = .inf false ∧ Binary64.round true 1 1 (-1075) = .finite true 0 (-1074) ∧
    Binary64.round false 3 1 (-1075) = .finite false 2 (-1074) := by decide

/-! ### Steps -/

/-- A device as a test holds it. -/
def dev0 : Device := { cfg := 0xC303#16, ptr := 0b00#2, pending := false }

/-- The transport's handle. -/
def h1 : BusHandle := { token := 1 }

/-- IDLE with the device bound, as after program P1's INIT. -/
def bound : State where
  st := .idle
  hv := true
  hbus := some h1
  haddr := some 0x48#7
  iaddr := some 0x48#7
  lch := none
  lg := none
  convPending := false
  cancelPending := false
  dev := dev0
  req := []
  sched := []
  trace := []
  draws := 7

/-- IDLE with nothing bound and the reset-armed timer running. -/
def fresh : State :=
  { bound with hv := false, hbus := none, haddr := none, iaddr := none, convPending := true }

/-- A measurement of channel ZERO at gain ONE in the sequencer state `st`. -/
def during (st : FsmState) (cp xp : Bool) : State :=
  { bound with st := st, lch := some .zero, lg := some .one, convPending := cp, cancelPending := xp }

/-- OPENING and SCANNING of `INIT 1, 0x48`. -/
def opening : State := { fresh with st := .opening, iaddr := some 0x48#7 }
def scanning : State := { opening with st := .scanning, hbus := some h1 }

/-- QV2. -/
theorem test_step_measure :
    step (bound.request 0x0020#16) =
      .next { bound with
        st := .cfgWriting, lch := some .zero, lg := some .one,
        trace := [.busWrite h1 0x48#7 [0x01#8, 0xC3#8, 0x03#8]] } := rfl

/-- QV1, QV3. -/
theorem test_step_measure_refused_and_held :
    step (fresh.request 0x0020#16) = .next { fresh with trace := [.respond (.err .notInitialized .none)] } ∧
    step (({ bound with convPending := true } : State).request 0x0020#16) = .next (during .hold true false) :=
  ⟨rfl, rfl⟩

/-- QV22: held on the request port. -/
theorem test_step_held :
    step ((during .converting true false).request 0x0321#16) =
      .next { during .converting true false with req := [0x0321#16] } := rfl

/-- P4, step 4: the word is refused. -/
theorem test_step_refused : step (bound.request 0x0003#16) = .refused (.reserved .reservedOp) := rfl

/-- IV1. -/
theorem test_step_init :
    step (bound.request 0x0321#16) =
      .next { bound with st := .opening, hv := false, trace := [.busOpen 1#7] } := rfl

/-- QV19, QV20. -/
theorem test_step_cancel :
    step ((during .converting true false).request 0x0002#16) =
      .next { during .idle true false with trace := [.respond (.err .cancelled .none)] } ∧
    step ((during .reading false false).request 0x0002#16) = .next (during .reading false true) := ⟨rfl, rfl⟩

/-- The operations run alone: R160, R230, R182, R184, R188, R191, R265, R266. -/
theorem test_step_issue :
    step (bound.offer (.issue (.cfg 0xC303#16))) = .next { bound with trace := [.encoded 0xC303#16] } ∧
    step ((during .reading false false).offer (.issue (.conv 0x0010#16))) =
      .next { during .reading false false with
        trace := [.decoded
          { raw := 1#12, code := 1#16, volts := Binary64.hex false 0x0624dd2f1a9fc (-9), uv := 0x0007D0#24,
            fs := false }] } ∧
    step (bound.offer (.issue (.frame [0x01#8, 0xBB#8, 0x03#8]))) =
      .next { bound with trace := [.busWrite h1 0x48#7 [0x01#8, 0xBB#8, 0x03#8]] } ∧
    step ((during .converting true false).offer (.issue .timer)) = .next (during .converting true false) ∧
    step (bound.offer (.issue (.frame [0x00#8]))) = .next { bound with trace := [.busWrite h1 0x48#7 [0x00#8]] } ∧
    step (bound.offer (.issue (.read 2))) = .next { bound with trace := [.busRead h1 0x48#7 2] } ∧
    step (bound.offer (.issue (.openCall 1#7))) = .next { bound with trace := [.busOpen 1#7] } ∧
    step (bound.offer (.issue (.scanCall h1))) = .next { bound with trace := [.busScan h1] } :=
  ⟨rfl, rfl, rfl, rfl, rfl, rfl, rfl, rfl⟩

/-- QV5, QV6 (the device by R87 a). -/
theorem test_step_cfg_write_done :
    step ((during .cfgWriting false false).offer (.writeDone (.ok ()))) =
      .next { during .converting true false with
        trace := [.timerArm 100], dev := { cfg := 0xC303#16, ptr := 0b01#2, pending := true } } ∧
    step ((during .cfgWriting false true).offer (.writeDone (.ok ()))) =
      .next { during .idle true false with
        trace := [.timerArm 100, .respond (.err .cancelled .none)],
        dev := { cfg := 0xC303#16, ptr := 0b01#2, pending := true } } := ⟨rfl, rfl⟩

/-- QV7, QV11, QV15: an error wins over a pending cancel; the device is the seventh draw of its free values. -/
theorem test_step_transport_errors :
    step ((during .cfgWriting false true).offer (.writeDone .err)) =
      .next { during .idle true false with
        trace := [.timerArm 100, .respond (.err .transportError .cfgWrite)], dev := Device.unspecified 7,
        draws := 8 } ∧
    step ((during .selecting false true).offer (.writeDone .err)) =
      .next { during .idle false false with
        trace := [.respond (.err .transportError .ptrSelect)], dev := Device.unspecified 7, draws := 8 } ∧
    step ((during .reading false true).offer (.readDone .err)) =
      .next { during .idle false false with
        trace := [.respond (.err .transportError .resultRead)], dev := Device.unspecified 7, draws := 8 } :=
  ⟨rfl, rfl, rfl⟩

/-- QV4, QV8, QV16, IV9. -/
theorem test_step_timer_expire :
    step ((during .hold true false).offer .timerExpire) =
      .next { during .cfgWriting false false with trace := [.busWrite h1 0x48#7 [0x01#8, 0xC3#8, 0x03#8]] } ∧
    step ((during .converting true false).offer .timerExpire) =
      .next { during .selecting false false with trace := [.busWrite h1 0x48#7 [0x00#8]] } ∧
    step (fresh.offer .timerExpire) = .next { fresh with convPending := false } ∧
    step (opening.offer .timerExpire) = .next { opening with convPending := false } := ⟨rfl, rfl, rfl, rfl⟩

/-- QV9, QV10. -/
theorem test_step_ptr_select_done :
    step ((during .selecting false false).offer (.writeDone (.ok ()))) =
      .next { during .reading false false with trace := [.busRead h1 0x48#7 2] } ∧
    step ((during .selecting false true).offer (.writeDone (.ok ()))) =
      .next { during .idle false false with trace := [.respond (.err .cancelled .none)] } := ⟨rfl, rfl⟩

/-- QV12, QV14. -/
theorem test_step_read_done :
    step ((during .reading false false).offer (.readDone (.ok [0x7F#8, 0xF0#8]))) =
      .next { during .idle false false with
        trace := [.warn 0x7FF#12,
          .respond (.measOk 0x07FF#16 (Binary64.hex false 0x0604189374bc7 2) 0x3E7830#24 true)] } ∧
    step ((during .reading false true).offer (.readDone (.ok [0x7F#8, 0xF0#8]))) =
      .next { during .idle false false with trace := [.respond (.err .cancelled .none)] } := ⟨rfl, rfl⟩

/-- IV2, IV3. -/
theorem test_step_open_done :
    step (opening.offer (.openDone (.ok h1))) =
      .next { scanning with trace := [.busScan h1] } ∧
    step (opening.offer (.openDone .err)) =
      .next { opening with
        st := .idle, trace := [.respond (.err .transportError .openBus)], dev := Device.unspecified 7,
        draws := 8 } := ⟨rfl, rfl⟩

/-- IV5, IV6, IV7. -/
theorem test_step_scan_done :
    step (scanning.offer (.scanDone (.ok [0x49#7, 0x48#7, 0x48#7]))) =
      .next { scanning with st := .idle, hv := true, haddr := some 0x48#7, trace := [.respond .initOk] } ∧
    step (scanning.offer (.scanDone (.ok [0x49#7]))) =
      .next { scanning with st := .idle, trace := [.respond (.err .deviceNotFound .none)] } ∧
    step (scanning.offer (.scanDone (.ok []))) =
      .next { scanning with st := .idle, trace := [.respond (.err .deviceNotFound .none)] } := ⟨rfl, rfl, rfl⟩

/-- QV23. -/
theorem test_step_reset :
    step ((during .cfgWriting false true).offer .reset) =
      .next { fresh with trace := [.timerArm 100], dev := Device.unspecified 7, draws := 8 } := rfl

/-- R197, R191, R182, R44: where the spec gives no step. -/
theorem test_step_faults :
    step bound = .fault .noEvent ∧ step (bound.offer .host) = .fault .noCommand ∧
    step (bound.offer (.writeDone (.ok ()))) = .fault (.notEnabled .writeDone .idle) ∧
    step (bound.offer .timerExpire) = .fault (.notEnabled .timerExpire .idle) ∧
    step ((during .reading false false).offer (.readDone (.ok [0#8]))) = .fault (.readLength 1) ∧
    step (fresh.offer (.issue (.frame [0x01#8, 0xC3#8, 0x03#8]))) = .fault .cfgWritePrecondition ∧
    step (fresh.offer (.issue (.read 2))) = .fault (.unwritten .hbus) := ⟨rfl, rfl, rfl, rfl, rfl, rfl, rfl⟩

/-- A table word placed by withFetchWord runs as the first step after reset. -/
theorem test_with_fetch_word :
    (∃ s, step (State.reset.withFetchWord 16 0x0020) = .next s ∧
      s.trace = [.timerArm 100, .respond (.err .notInitialized .none)]) ∧
    (∃ s, step (State.reset.withFetchWord 16 0x0321) = .next s ∧ s.trace = [.timerArm 100, .busOpen 1#7]) ∧
    (∃ s, step (State.reset.withFetchWord 24 0x018103) = .next s ∧
      s.trace = [.timerArm 100, .busWrite ⟨0⟩ 0x48#7 [0x01#8, 0x81#8, 0x03#8]]) ∧
    (∃ s, step (State.reset.withFetchWord 0 0) = .next s ∧ s.trace = [.timerArm 100]) :=
  ⟨⟨_, rfl, rfl⟩, ⟨_, rfl, rfl⟩, ⟨_, rfl, rfl⟩, ⟨_, rfl, rfl⟩⟩

/-! ### Witnesses: for every statement with hypotheses, states and operands that meet all of them -/

/-- `e` is the next event of `s`, and the step on it puts out `outs` and leads to a next state. -/
def Steps (s : State) (e : Event) (outs : List Action) : Prop :=
  ∃ s', (s.offer e).sched = e :: s.sched ∧ step (s.offer e) = .next s' ∧ Puts (s.offer e) s' outs

/-- DecodeOfEncodeIsTheInstruction, EncodeOfDecodeIsTheWord. -/
theorem witness_round_trip :
    (Instr.measure .diff23 .sixteen).wellFormed = true ∧ (Instr.busScan h1).wellFormed = true ∧
    decode (.cmd 0x00B4#16) = .ok (.measure .diff23 .sixteen) ∧
    decode (.internal (.frame [0x00#8])) = .ok .ptrSelect := ⟨rfl, rfl, rfl, rfl⟩

/-- CommandOperandExtraction: each clause, at the largest field values. -/
theorem witness_operand_extraction :
    bits 0xFFFD#16 0 2 = 0b01#2 ∧
    (bits 0x00B4#16 0 2 = 0b00#2 ∧ bits 0x00B4#16 8 8 = 0#8 ∧ bits 0x00B4#16 2 3 = Channel.diff23.index ∧
      bits 0x00B4#16 5 3 = Gain.sixteen.index) := by decide

/-- ReservedCommandWordsAreRefused: each way a word is reserved, at the boundary, and an INIT word. -/
theorem witness_reserved :
    bits 0x0003#16 0 2 = 0b11#2 ∧ (bits 0x0100#16 0 2 = 0b00#2 ∧ bits 0x0100#16 8 8 ≠ 0#8) ∧
    (bits 0x0018#16 0 2 = 0b00#2 ∧ 6 ≤ (bits 0x0018#16 2 3).toNat) ∧
    (bits 0x00C0#16 0 2 = 0b00#2 ∧ 6 ≤ (bits 0x00C0#16 5 3).toNat) ∧
    (bits 0x0006#16 0 2 = 0b10#2 ∧ bits 0x0006#16 2 14 ≠ 0#14) ∧ bits 0x0001#16 0 2 = 0b01#2 := by decide

/-- StepRunsTheDecodedInstruction, both clauses. -/
theorem witness_step_runs :
    ((bound.request 0x0020#16).sched = .host :: [] ∧ (bound.request 0x0020#16).req = 0x0020#16 :: [] ∧
      decode (.cmd 0x0020#16) = .ok (.measure .zero .one)) ∧
    ((bound.offer (.issue (.read 2))).sched = .issue (.read 2) :: [] ∧
      decode (.internal (.read 2)) = .ok .resultRead) := ⟨⟨rfl, rfl, rfl⟩, rfl, rfl⟩

/-- RequestHandshake, the clauses with hypotheses. -/
theorem witness_handshake :
    decode (.cmd 0x0321#16) = .ok (.init 1#7 0x48#7) ∧ Instr.init 1#7 0x48#7 ≠ .cancel ∧
    (during .converting true false).st ≠ .idle ∧ bound.st = .idle := ⟨rfl, by decide, by decide, rfl⟩

/-- EnabledEvents, EveryStepKeepsTheSequencerInvariants, EveryStepKeepsTheWrittenFields: the invariants hold in a state of
every sequencer state. -/
theorem witness_invariants :
    BlockInv bound ∧ BlockInv fresh ∧ BlockInv opening ∧ BlockInv scanning ∧ BlockInv (during .hold true false) ∧
    BlockInv (during .cfgWriting false true) ∧ BlockInv (during .converting true false) ∧
    BlockInv (during .selecting false false) ∧ BlockInv (during .reading false true) := by
  refine ⟨?_, ?_, ?_, ?_, ?_, ?_, ?_, ?_, ?_⟩ <;> decide

/-- EveryStepKeepsTheSequencerInvariants, EveryStepKeepsTheWrittenFields, StepsOnlyAddActions: steps from such states. -/
theorem witness_steps_from_invariants :
    Steps (during .hold true false) .timerExpire [.busWrite h1 0x48#7 [0x01#8, 0xC3#8, 0x03#8]] ∧
    Steps (during .reading false true) (.readDone (.ok [0#8, 0#8])) [.respond (.err .cancelled .none)] :=
  ⟨⟨_, rfl, rfl, rfl⟩, _, rfl, rfl, rfl⟩

/-- ConfigurationWordTable, GainAndChannelTables: the premises at their boundary values. -/
theorem witness_tables :
    configWord .zero .one = configWord .zero .one ∧ Gain.twoThirds.controlBits < Gain.one.controlBits ∧
    (1 ≤ Gain.one.controlBits.toNat ∧ Gain.two.controlBits.toNat = Gain.one.controlBits.toNat + 1) ∧
    (1 ≤ Gain.eight.controlBits.toNat ∧ Gain.sixteen.controlBits.toNat = Gain.eight.controlBits.toNat + 1) ∧
    Channel.three.singleEnded = true ∧ Channel.diff01.singleEnded = false := by decide

/-- MeasureAcceptance, its clauses; InitAcceptance. -/
theorem witness_measure_acceptance :
    (fresh.st = .idle ∧ fresh.hv = false) ∧
    (bound.st = .idle ∧ bound.hv = true ∧ ({ bound with convPending := true } : State).convPending = true) ∧
    (bound.convPending = false ∧ bound.hbus = some h1 ∧ bound.haddr = some 0x48#7) ∧
    (during .hold true false).st ≠ .idle := by decide

/-- CfgWriteIssuesTheFrame, PtrSelectIssuesTheFrame, ResultReadIssuesTheRead (both clauses), WaitChangesNothing. -/
theorem witness_operations :
    (bound.convPending = false ∧ bound.hv = true ∧ bound.hbus = some h1 ∧ bound.haddr = some 0x48#7) ∧
    ((during .reading false false).st = .reading ∧ [0#8].length ≠ 2 ∧ [0#8, 0#8, 0#8].length ≠ 2) ∧
    (during .converting true false).st = .converting := by decide

/-- ConvertingIsLeftOnlyByExpiryOrCancel: the three ways out, and two events on which the block stays. -/
theorem witness_converting :
    (∃ s', step ((during .converting true false).offer .timerExpire) = .next s' ∧ s'.st ≠ .converting) ∧
    (∃ s', step ((during .converting true false).request 0x0002#16) = .next s' ∧ s'.st ≠ .converting) ∧
    (∃ s', step ((during .converting true false).offer .reset) = .next s' ∧ s'.st ≠ .converting) ∧
    (∃ s', step ((during .converting true false).request 0x0020#16) = .next s' ∧ s'.st = .converting) ∧
    (∃ s', step (({ during .converting true false with dev := { dev0 with pending := true } } : State).offer
      .conversionEnd) = .next s' ∧ s'.st = .converting ∧ Event.conversionEnd.hardware = true) :=
  ⟨⟨_, rfl, by decide⟩, ⟨_, rfl, by decide⟩, ⟨_, rfl, by decide⟩, ⟨_, rfl, rfl⟩, _, rfl, rfl, rfl⟩

/-- OperationsStopOnUnwrittenFields, each clause. -/
theorem witness_unwritten :
    fresh.hbus = none ∧ (scanning.hbus = some h1 ∧ scanning.haddr = none) ∧
    (({ fresh with convPending := false, hv := true } : State).convPending = false ∧
      ({ fresh with convPending := false, hv := true } : State).hv = true) ∧
    fresh.convPending = true ∧ ({ bound with hv := false } : State).hv = false ∧ fresh.lg = none := by decide

/-- CancelByState: every state of each clause has an instance. -/
theorem witness_cancel :
    bound.st = .idle ∧ opening.st = .opening ∧ scanning.st = .scanning ∧ (during .hold true false).st = .hold ∧
    (during .converting true false).st = .converting ∧ (during .cfgWriting false false).st = .cfgWriting ∧
    (during .selecting false false).st = .selecting ∧ (during .reading false true).st = .reading := by decide

/-- CfgWriteSucceeds, CfgWriteFails, PtrSelectCompletes, ResultReadSucceeds, ResultReadFails: their states, with and
without a pending cancel. -/
theorem witness_completions :
    (∀ xp, (during .cfgWriting false xp).st = .cfgWriting ∧ (during .cfgWriting false xp).lch = some .zero ∧
      (during .cfgWriting false xp).lg = some .one ∧ (during .cfgWriting false xp).cancelPending = xp) ∧
    (∀ xp, (during .selecting false xp).st = .selecting ∧ (during .selecting false xp).hbus = some h1 ∧
      (during .selecting false xp).haddr = some 0x48#7 ∧ (during .selecting false xp).cancelPending = xp) ∧
    (∀ xp, (during .reading false xp).st = .reading ∧ (during .reading false xp).lg = some .one ∧
      (during .reading false xp).cancelPending = xp) :=
  ⟨fun _ => ⟨rfl, rfl, rfl, rfl⟩, fun _ => ⟨rfl, rfl, rfl, rfl⟩, fun _ => ⟨rfl, rfl, rfl⟩⟩

/-- DeviceEffects: a step of each clause. -/
theorem witness_device_effects :
    Steps (during .cfgWriting false false) (.writeDone (.ok ())) [.timerArm 100] ∧
    Steps (during .selecting false false) (.writeDone (.ok ())) [.busRead h1 0x48#7 2] ∧
    Steps (during .reading false true) (.readDone (.ok [0#8, 0#8])) [.respond (.err .cancelled .none)] ∧
    Steps fresh .timerExpire [] ∧ ({ dev0 with pending := true } : Device).pending = true :=
  ⟨⟨_, rfl, rfl, rfl⟩, ⟨_, rfl, rfl, rfl⟩, ⟨_, rfl, rfl, rfl⟩, ⟨_, rfl, rfl, rfl⟩, rfl⟩

/-- TimerExpiry, its four clauses. -/
theorem witness_timer_expiry :
    bound.convPending = false ∧ (fresh.convPending = true ∧ fresh.st = .idle) ∧
    (opening.convPending = true ∧ opening.st = .opening) ∧ (scanning.convPending = true ∧ scanning.st = .scanning) ∧
    ((during .converting true false).convPending = true ∧ (during .converting true false).st = .converting ∧
      (during .converting true false).hbus = some h1 ∧ (during .converting true false).haddr = some 0x48#7) ∧
    ((during .hold true false).convPending = true ∧ (during .hold true false).st = .hold ∧
      (during .hold true false).hbus = some h1 ∧ (during .hold true false).haddr = some 0x48#7 ∧
      (during .hold true false).lch = some .zero ∧ (during .hold true false).lg = some .one) := by decide

/-- BusOpenCompletes, BusScanCompletes, each clause. -/
theorem witness_initialization :
    opening.st = .opening ∧ scanning.st = .scanning ∧ scanning.iaddr = some 0x48#7 ∧
    0x48#7 ∈ [0x49#7, 0x48#7] ∧ 0x48#7 ∉ [0x49#7] ∧ 0x48#7 ∉ ([] : List DevAddr) := by decide

/-- HandleValidChangesOnlyByInitAndReset: `hv` becomes 1, and becomes 0 in both ways. -/
theorem witness_hv :
    (∃ s', step (scanning.offer (.scanDone (.ok [0x48#7]))) = .next s' ∧ scanning.hv = false ∧ s'.hv = true) ∧
    (∃ s', step (bound.request 0x0321#16) = .next s' ∧ bound.hv = true ∧ s'.hv = false) ∧
    (∃ s', step (bound.offer .reset) = .next s' ∧ s'.hv = false) :=
  ⟨⟨_, rfl, rfl, rfl⟩, ⟨_, rfl, rfl, rfl⟩, _, rfl, rfl⟩

/-- DecodeRuns. -/
theorem witness_decode_runs : (during .reading false false).lg = some .one := rfl

/-- RoundingIsToNearest: an exact value, an inexact one, and a tie with the other candidate as near. -/
theorem witness_rounding :
    (0 < 1000 ∧ Binary64.round false 4096 1000 0 ≠ .inf false) ∧
    Binary64.round true 0 1 0 ≠ .inf true ∧ Binary64.round false (2 ^ 53 + 1) 1 0 ≠ .inf false ∧
    (Binary64.finite false (2 ^ 52 + 1) 1).canonical = true ∧
    |(Binary64.finite false (2 ^ 52) 1).value - (2 ^ 53 + 1)| =
      |(Binary64.finite false (2 ^ 52 + 1) 1).value - (2 ^ 53 + 1)| := by
  refine ⟨by decide, by decide, by decide, by decide, ?_⟩
  norm_num [Binary64.value]

/-- InvariantsHoldAfterReset: clean-entry states, with and without a handle; the expired timer of a device whose
conversion is still in flight is none. -/
theorem witness_clean_entry :
    CleanEntry bound ∧ CleanEntry fresh ∧ ¬ CleanEntry { bound with dev := { dev0 with pending := true } } ∧
    ¬ CleanEntry { bound with iaddr := some 0x49#7 } := by decide

/-- OrderAndSymmetryOfTheVoltage, SourcePropertiesOfDecode: the range's ends. -/
theorem witness_volts :
    ((-2048 : Int) ≤ -2048 ∧ (-2048 : Int) < 2047 ∧ (2047 : Int) ≤ 2047) ∧ (2048 : Int) ≤ 2048 ∧ (2047 : Int) ≠ 0 ∧ 0x7FE ≤ 0x7FE ∧
    0 ≤ 0x7FE := by decide

/-- UnwrittenFieldsAreNeverRead: a state with the invariants and an event of the hardware that reads fields. -/
theorem witness_unwritten_never_read :
    BlockInv ((during .converting true false).offer .timerExpire) ∧ Event.timerExpire.hardware = true ∧
    ((during .converting true false).offer .timerExpire).sched = .timerExpire :: [] := by decide

/-- OneTransportOperationOutstanding, OnlyTheFramesOfTheSpecAreIssued, CfgWritesOnlyWithTheGuardClear,
ResultPhaseOnlyAfterTheWait: steps that issue each transport operation. -/
theorem witness_transport :
    Steps (during .hold true false) .timerExpire [.busWrite h1 0x48#7 [0x01#8, 0xC3#8, 0x03#8]] ∧
    (Action.busWrite h1 0x48#7 [0x01#8, 0xC3#8, 0x03#8]).isCfgWrite = true ∧
    Steps (during .converting true false) .timerExpire [.busWrite h1 0x48#7 [0x00#8]] ∧
    Steps (during .selecting false false) (.writeDone (.ok ())) [.busRead h1 0x48#7 2] ∧
    Steps opening (.openDone (.ok h1)) [.busScan h1] ∧
    opening.st.waitsForTransport = true ∧ (during .selecting false false).st.waitsForTransport = true :=
  ⟨⟨_, rfl, rfl, rfl⟩, rfl, ⟨_, rfl, rfl, rfl⟩, ⟨_, rfl, rfl, rfl⟩, ⟨_, rfl, rfl, rfl⟩, rfl, rfl⟩

/-- ConversionsInFlightAreGuarded: a successful write, a failed one, and a step that issues a configuration write. -/
theorem witness_in_flight :
    DeviceCovered ((during .cfgWriting false false).offer (.writeDone (.ok ()))) ∧
    Steps (during .cfgWriting false false) (.writeDone (.ok ())) [.timerArm 100] ∧
    (DeviceCovered ((during .cfgWriting false false).offer (.writeDone .err)) ∧
      Steps (during .cfgWriting false false) (.writeDone .err)
        [.timerArm 100, .respond (.err .transportError .cfgWrite)]) ∧
    DeviceCovered ((during .hold true false).offer .timerExpire) ∧
    Steps (during .hold true false) .timerExpire [.busWrite h1 0x48#7 [0x01#8, 0xC3#8, 0x03#8]] :=
  ⟨by decide, ⟨_, rfl, rfl, rfl⟩, ⟨by decide, _, rfl, rfl, rfl⟩, by decide, _, rfl, rfl, rfl⟩

/-- OneResponsePerRequest: a request accepted, answered at once, and answered later. -/
theorem witness_one_response :
    Steps { bound with req := [0x0020#16] } .host [.busWrite h1 0x48#7 [0x01#8, 0xC3#8, 0x03#8]] ∧
    Steps { fresh with req := [0x0020#16] } .host [.respond (.err .notInitialized .none)] ∧
    Steps (during .selecting false false) (.writeDone .err) [.respond (.err .transportError .ptrSelect)] ∧
    Event.host.hardware = true ∧ Event.host ≠ .reset :=
  ⟨⟨_, rfl, rfl, rfl⟩, ⟨_, rfl, rfl, rfl⟩, ⟨_, rfl, rfl, rfl⟩, rfl, by decide⟩

/-- ErrorExitFrame, StatusAndStepCodes: an error in CFG_WRITING and one outside it. -/
theorem witness_error_exit :
    Steps (during .cfgWriting false true) (.writeDone .err)
      [.timerArm 100, .respond (.err .transportError .cfgWrite)] ∧
    Steps scanning (.scanDone (.ok [])) [.respond (.err .deviceNotFound .none)] :=
  ⟨⟨_, rfl, rfl, rfl⟩, _, rfl, rfl, rfl⟩

/-- WarningsComeWithFullScaleResults: a step that warns. -/
theorem witness_warning :
    Steps (during .reading false false) (.readDone (.ok [0x7F#8, 0xF0#8]))
      [.warn 0x7FF#12, .respond (.measOk 0x07FF#16 (Binary64.hex false 0x0604189374bc7 2) 0x3E7830#24 true)] :=
  ⟨_, rfl, rfl, rfl⟩

/-- SuccessfulMeasurementTrace: program P1 from its step 5 to its end. -/
theorem witness_successful_measurement :
    Host.Core.run Sys2Proof.core 5
      { bound with
        req := [0x0020#16]
        sched := [.host, .writeDone (.ok ()), .timerExpire, .writeDone (.ok ()), .readDone (.ok [0x7F#8, 0xF0#8])] } =
      .next { during .idle false false with
        dev := { cfg := 0xC303#16, ptr := 0b00#2, pending := false }
        trace := [.busWrite h1 0x48#7 [0x01#8, 0xC3#8, 0x03#8], .timerArm 100, .busWrite h1 0x48#7 [0x00#8],
          .busRead h1 0x48#7 2, .warn 0x7FF#12,
          .respond (.measOk 0x07FF#16 (Binary64.hex false 0x0604189374bc7 2) 0x3E7830#24 true)] } := rfl

end Sys2Proof.Tests
end

section
/-! Proofs about the state: the request port's handshake (10_state.md R31). -/

namespace Sys2Proof.Machine

theorem reqReady_iff {i : Instr} {s : State} : reqReady i s = true ↔ s.st = .idle ∨ i = .cancel := by
  simp [reqReady]

theorem takeRequest_accepted {i : Instr} {s : State} (h : s.st = .idle ∨ i = .cancel) :
    takeRequest i s = s.setReq s.req.tail :=
  if_pos (reqReady_iff.mpr h)

theorem takeRequest_held {i : Instr} {s : State} (hst : s.st ≠ .idle) (hi : i ≠ .cancel) : takeRequest i s = s :=
  if_neg fun h => (reqReady_iff.mp h).elim hst hi

/-- The host's turn with a presented word that spells a command. -/
theorem step_request {w : Word16} {i : Instr} (hd : decode (.cmd w) = .ok i) (s : State) :
    step (s.request w) = exec i (takeRequest i (s.setReq (w :: s.req))) := by
  have hturn : step (s.request w) = onHost (s.setReq (w :: s.req)) := step_offer .host _
  rw [hturn]
  simp only [onHost, State.setReq_req, hd]

/-- An accepted word is taken off the port, and its command runs in the state before it was presented. -/
theorem step_request_accepted {w : Word16} {i : Instr} {s : State} (hd : decode (.cmd w) = .ok i)
    (h : s.st = .idle ∨ i = .cancel) : step (s.request w) = exec i s := by
  rw [step_request hd, takeRequest_accepted (by simpa using h)]
  rfl

/-- INIT and MEASURE change nothing outside IDLE (44_initialization.md R260, 42_conversion_sequencer.md R180). -/
theorem exec_command_held {w : Word16} {i : Instr} {s : State} (hd : decode (.cmd w) = .ok i) (hi : i ≠ .cancel)
    (hst : s.st ≠ .idle) : exec i s = .next s := by
  obtain ⟨c, g, rfl⟩ | ⟨bus, addr, rfl⟩ | rfl := decode_cmd_cases hd
  · exact if_pos hst
  · exact if_pos hst
  · exact absurd rfl hi

/-- A word that is not accepted stays presented. -/
theorem step_request_held {w : Word16} {i : Instr} {s : State} (hd : decode (.cmd w) = .ok i) (hi : i ≠ .cancel)
    (hst : s.st ≠ .idle) : step (s.request w) = .next (s.setReq (w :: s.req)) := by
  have hst' : (s.setReq (w :: s.req)).st ≠ .idle := by simpa using hst
  rw [step_request hd, takeRequest_held hst' hi, exec_command_held hd hi hst']

/-- Settles O9, by the three ways of a presented word: held, accepted in IDLE, and CANCEL. -/
theorem requestHandshake : Obligations.RequestHandshake := by
  refine ⟨fun s w i hd hi hst => ?_, fun s w i hd _ hst => ?_, fun s => ?_⟩
  · exact step_request_held hd hi hst
  · exact step_request_accepted hd (.inl hst)
  · exact step_request_accepted Laws.RoundTrip.cancel (.inr rfl)

end Sys2Proof.Machine
end

section
/-! Proofs about the state: the gain and channel tables (10_state.md R50 to R53). -/

namespace Sys2Proof

theorem Gain.controlBits_injective : Function.Injective Gain.controlBits := fun g g' h => by
  simpa [Gain.ofControlBits_controlBits] using congrArg Gain.ofControlBits h

theorem Channel.mux_injective : Function.Injective Channel.mux := fun c c' h => by
  simpa [Channel.ofMux_mux] using congrArg Channel.ofMux h

theorem Channel.inputs_injective : Function.Injective Channel.inputs := by
  intro c c'
  cases c <;> cases c' <;> decide

/-- The highest bit of a `mux` code tells the single-ended channels from the differential ones. -/
theorem Channel.singleEnded_eq_msb (c : Channel) : c.singleEnded = c.mux.msb := by cases c <;> rfl

/-- Three bits moved up by four stay clear of the low nibble. -/
theorem setWidth_shiftLeft_and_lowNibble (m : BitVec 3) : (m.setWidth 8 <<< 4) &&& 0x0F#8 = 0#8 := by
  revert m
  decide

/-- TWO_THIRDS is the gain of the control bits 0; for every other one the full scale is 8.192 V divided by two to the
control bits. -/
theorem Gain.fullScale_cases (g : Gain) :
    (g.controlBits.toNat = 0 ∧ g.fullScaleMillivolts = 6144) ∨
      (1 ≤ g.controlBits.toNat ∧ g.fullScaleMillivolts * 2 ^ g.controlBits.toNat = 8192) := by
  cases g <;> decide

theorem Gain.fullScale_pos (g : Gain) : 0 < g.fullScaleMillivolts := by cases g <;> decide

theorem Gain.fullScale_mul_pow {g : Gain} (h : 1 ≤ g.controlBits.toNat) :
    g.fullScaleMillivolts * 2 ^ g.controlBits.toNat = 8192 := by
  obtain ⟨h0, _⟩ | ⟨_, hfs⟩ := g.fullScale_cases
  · omega
  · exact hfs

theorem Gain.fullScale_le_of_pos {g : Gain} (h : 1 ≤ g.controlBits.toNat) : g.fullScaleMillivolts ≤ 4096 := by
  have hfs := fullScale_mul_pow h
  have hpow : 2 ^ 1 ≤ 2 ^ g.controlBits.toNat := Nat.pow_le_pow_right (by decide) h
  nlinarith

theorem Gain.fullScale_halves {g g' : Gain} (h : 1 ≤ g.controlBits.toNat)
    (hs : g'.controlBits.toNat = g.controlBits.toNat + 1) :
    g.fullScaleMillivolts = 2 * g'.fullScaleMillivolts := by
  have hg := fullScale_mul_pow h
  have hg' := fullScale_mul_pow (g := g') (by omega)
  rw [hs, Nat.pow_succ] at hg'
  exact Nat.eq_of_mul_eq_mul_right (Nat.two_pow_pos g.controlBits.toNat) (by linarith)

theorem Gain.fullScale_lt {g g' : Gain} (h : g.controlBits < g'.controlBits) :
    g'.fullScaleMillivolts < g.fullScaleMillivolts := by
  have h : g.controlBits.toNat < g'.controlBits.toNat := h
  obtain ⟨_, hfs⟩ | ⟨_, hfs⟩ := g.fullScale_cases
  · have := fullScale_le_of_pos (g := g') (by omega)
    omega
  · have hfs' := fullScale_mul_pow (g := g') (by omega)
    refine Nat.lt_of_mul_lt_mul_right (a := 2 ^ g.controlBits.toNat) ?_
    calc g'.fullScaleMillivolts * 2 ^ g.controlBits.toNat
      _ < g'.fullScaleMillivolts * 2 ^ g'.controlBits.toNat :=
        Nat.mul_lt_mul_of_pos_left (Nat.pow_lt_pow_right (by decide) h) g'.fullScale_pos
      _ = g.fullScaleMillivolts * 2 ^ g.controlBits.toNat := hfs'.trans hfs.symm

/-- Settles O14: codes are distinct because the decoder's tables read them back, and the full scale is 8.192 V halved
once for each step of the control bits, but for TWO_THIRDS. -/
theorem gainAndChannelTables : Obligations.GainAndChannelTables := by
  refine ⟨fun _ _ h => Gain.controlBits_injective h, fun _ _ => Gain.fullScale_lt,
    fun _ _ => Gain.fullScale_halves, rfl, rfl, fun _ _ h => Channel.mux_injective h, fun c c' hc hc' hmux => ?_,
    fun c => setWidth_shiftLeft_and_lowNibble c.mux, rfl, rfl, fun _ _ h => Channel.inputs_injective h⟩
  rw [Channel.singleEnded_eq_msb] at hc hc'
  simp [hmux, hc'] at hc

end Sys2Proof
end

section
/-! Proofs about the memory: the frames that the block puts on the bus (20_memory.md R81, R83). -/

namespace Sys2Proof.Machine

/-- An access to the device is one of the three of 20_memory.md R83, at the handle and the address bound (R81); every
other action is unrestricted. -/
def Action.FrameAt (hbus : Option BusHandle) (haddr : Option DevAddr) : Action → Prop
  | .busWrite h a bytes =>
    hbus = some h ∧ haddr = some a ∧ (bytes = selectFrame ∨ ∃ c g, bytes = cfgFrame (configWord c g))
  | .busRead h a n => hbus = some h ∧ haddr = some a ∧ n = resultLength
  | _ => True

theorem cfgFrame_configWord (c : Channel) (g : Gain) :
    cfgFrame (configWord c g) = [0x01#8, highByte (configWord c g), 0x03#8] := by
  have hlow : lowByte (configWord c g) = 0x03#8 := lowByte_append _ _
  rw [cfgFrame, hlow]
  rfl

theorem ExecCase.frameAt {s s' : State} {i : Instr} {outs : List Action} (hc : ExecCase s i outs s') :
    ∀ x ∈ outs, x.FrameAt s.hbus s.haddr := by
  cases hc with
  | measureWrite c g h a _ _ _ hh ha => exact List.forall_mem_singleton.mpr ⟨hh, ha, .inr ⟨c, g, rfl⟩⟩
  | cfgWrite c g h a _ _ hh ha => exact List.forall_mem_singleton.mpr ⟨hh, ha, .inr ⟨c, g, rfl⟩⟩
  | ptrSelect h a hh ha => exact List.forall_mem_singleton.mpr ⟨hh, ha, .inl rfl⟩
  | resultRead h a hh ha => exact List.forall_mem_singleton.mpr ⟨hh, ha, rfl⟩
  | _ => simp [Action.FrameAt]

theorem EventCase.frameAt {s s' : State} {e : Event} {outs : List Action} (hc : EventCase s e outs s') :
    ∀ x ∈ outs, x.FrameAt s.hbus s.haddr := by
  cases hc with
  | host _ _ _ _ _ _ _ hx => simpa using hx.frameAt
  | issue _ _ _ _ _ hx => exact hx.frameAt
  | selectOk h a _ _ hh ha => exact List.forall_mem_singleton.mpr ⟨hh, ha, rfl⟩
  | expireConverting h a _ _ hh ha => exact List.forall_mem_singleton.mpr ⟨hh, ha, .inl rfl⟩
  | expireHold c g h a _ _ _ _ hh ha => exact List.forall_mem_singleton.mpr ⟨hh, ha, .inr ⟨c, g, rfl⟩⟩
  | _ => simp [Action.FrameAt]

/-- The bound handle and address are those of the state before the step. -/
theorem step_frameAt {s s' : State} {outs : List Action} (hx : step s = .next s') (hp : Puts s s' outs) :
    ∀ x ∈ outs, x.FrameAt s.hbus s.haddr := by
  obtain ⟨_, _, _, hc⟩ := step_cases_puts hx hp
  exact hc.frameAt

/-- Settles O53, by the cases of a step: only a case that names the bound handle and address puts out an access to the
device, and its frame is a configuration frame, the select frame or the result read. -/
theorem onlyTheFramesOfTheSpecAreIssued : Obligations.OnlyTheFramesOfTheSpecAreIssued := by
  refine fun s s' outs hx hp => ⟨fun h a bytes hm => ?_, fun h a n hm => step_frameAt hx hp _ hm⟩
  obtain ⟨hh, ha, hsel | ⟨c, g, hcfg⟩⟩ := step_frameAt hx hp _ hm
  · exact ⟨hh, ha, .inl hsel⟩
  · exact ⟨hh, ha, .inr ⟨c, g, hcfg.trans (cfgFrame_configWord c g)⟩⟩

end Sys2Proof.Machine
end

section
/-! Proofs about the encoding: operands and reserved forms of the command word (30_encoding.md R120, R124 to R126), and
the pseudo-instructions (R132). -/

namespace Sys2Proof

theorem Channel.ofIndex_eq_none {i : BitVec 3} : 6 ≤ i.toNat → Channel.ofIndex i = none := by
  revert i
  decide

theorem Gain.ofIndex_eq_none {i : BitVec 3} : 6 ≤ i.toNat → Gain.ofIndex i = none := by
  revert i
  decide

section decodeMeasure

variable {w : Word16} {c : Channel} {g : Gain}

theorem decodeMeasure_ok (h0 : bits w 8 8 = 0#8) (hc : bits w 2 3 = c.index) (hg : bits w 5 3 = g.index) :
    decodeMeasure w = .ok (.measure c g) := by
  simp [decodeMeasure, h0, hc, hg, Channel.ofIndex_index, Gain.ofIndex_index]

theorem decodeMeasure_reservedBits (h : bits w 8 8 ≠ 0#8) : decodeMeasure w = .error .reservedBits := if_pos h

theorem decodeMeasure_channelIndex (h0 : bits w 8 8 = 0#8) (hc : Channel.ofIndex (bits w 2 3) = none) :
    decodeMeasure w = .error (.channelIndex (bits w 2 3)) := by
  simp [decodeMeasure, h0, hc]

theorem decodeMeasure_gainIndex (h0 : bits w 8 8 = 0#8) (hc : Channel.ofIndex (bits w 2 3) = some c)
    (hg : Gain.ofIndex (bits w 5 3) = none) : decodeMeasure w = .error (.gainIndex (bits w 5 3)) := by
  simp [decodeMeasure, h0, hc, hg]

/-- The reserved bits are judged first, then the channel index, then the gain index. -/
theorem decodeMeasure_error
    (h : bits w 8 8 ≠ 0#8 ∨ 6 ≤ (bits w 2 3).toNat ∨ 6 ≤ (bits w 5 3).toNat) :
    ∃ r, decodeMeasure w = .error r := by
  by_cases h0 : bits w 8 8 = 0#8
  · obtain hres | hc | hg := h
    · exact absurd h0 hres
    · exact ⟨_, decodeMeasure_channelIndex h0 (Channel.ofIndex_eq_none hc)⟩
    · cases hc : Channel.ofIndex (bits w 2 3) with
      | none => exact ⟨_, decodeMeasure_channelIndex h0 hc⟩
      | some c => exact ⟨_, decodeMeasure_gainIndex h0 hc (Gain.ofIndex_eq_none hg)⟩
  · exact ⟨_, decodeMeasure_reservedBits h0⟩

end decodeMeasure

section decodeCmd

variable {w : Word16}

theorem decode_cmd_measure (hop : bits w 0 2 = 0b00#2) : decode (.cmd w) = decodeMeasure w := by
  simp [decode, decodeCmd, hop]

theorem decode_cmd_init (hop : bits w 0 2 = 0b01#2) : decode (.cmd w) = .ok (.init (bits w 9 7) (bits w 2 7)) := by
  simp [decode, decodeCmd, hop]

theorem decode_cmd_cancel_reserved (hop : bits w 0 2 = 0b10#2) (h : bits w 2 14 ≠ 0#14) :
    decode (.cmd w) = .error .reservedBits := by
  simp [decode, decodeCmd, hop, h]

theorem decode_cmd_reservedOp (hop : bits w 0 2 = 0b11#2) : decode (.cmd w) = .error .reservedOp := by
  simp [decode, decodeCmd, hop]

end decodeCmd

/-- Settles O4, by the op of the word: INIT's fields are the operands, and MEASURE's are read through the index
tables. -/
theorem commandOperandExtraction : Obligations.CommandOperandExtraction :=
  ⟨fun _ => decode_cmd_init, fun _ _ _ hop h0 hc hg => (decode_cmd_measure hop).trans (decodeMeasure_ok h0 hc hg)⟩

/-- Settles O7, by evaluation of the source's defaults, bus 1 and address 0x48. -/
theorem pseudoInstructionDefaults : Obligations.PseudoInstructionDefaults :=
  ⟨rfl, rfl, fun _ => rfl⟩

end Sys2Proof

namespace Sys2Proof.Machine

/-- The host's turn with a presented word that spells no command. -/
theorem step_request_reserved {w : Word16} {r : Reject} (hd : decode (.cmd w) = .error r) (s : State) :
    step (s.request w) = .refused (.reserved r) := by
  simp only [State.request, step_offer, consume, onHost, State.setReq_req, hd]

/-- INIT answers a next state in every state (44_initialization.md R260). -/
theorem exec_init_next (bus : BusId) (addr : DevAddr) (s : State) : ∃ s', exec (.init bus addr) s = .next s' := by
  by_cases hst : s.st = .idle
  · exact ⟨_, if_neg (not_not_intro hst)⟩
  · exact ⟨s, if_pos hst⟩

/-- Settles O6: the decoder rejects each reserved form by name, before the state is looked at; an INIT word always
decodes, and INIT has a step in every state. -/
theorem reservedCommandWordsAreRefused : Obligations.ReservedCommandWordsAreRefused := by
  refine ⟨fun s w hw => ?_, fun s w hop => ?_⟩
  · obtain ⟨r, hd⟩ : ∃ r, decode (.cmd w) = .error r := by
      obtain hop | ⟨hop, hres⟩ | ⟨hop, hres⟩ := hw
      · exact ⟨_, decode_cmd_reservedOp hop⟩
      · rw [decode_cmd_measure hop]
        exact decodeMeasure_error hres
      · exact ⟨_, decode_cmd_cancel_reserved hop hres⟩
    exact ⟨r, step_request_reserved hd s⟩
  · rw [step_request (decode_cmd_init hop)]
    exact exec_init_next _ _ _

end Sys2Proof.Machine
end

section
/-! Proofs about the encoding: the status and step codes of the responses (30_encoding.md R117, R118). -/

namespace Sys2Proof.Machine

/-- An error response is coded as 30_encoding.md R117 and R118 say: never with status OK, and with a step exactly for
TRANSPORT_ERROR. Every other action is unrestricted. -/
def Action.ErrorCoded : Action → Prop
  | .respond (.err status k) => status ≠ .ok ∧ (status = .transportError ↔ k ≠ .none)
  | _ => True

theorem ExecCase.errorCoded {s s' : State} {i : Instr} {outs : List Action} (hc : ExecCase s i outs s') :
    ∀ x ∈ outs, x.ErrorCoded := by
  cases hc with
  | measureNoHandle => exact List.forall_mem_singleton.mpr ⟨by decide, by decide⟩
  | cancelNow => exact List.forall_mem_singleton.mpr ⟨by decide, by decide⟩
  | _ => simp [Action.ErrorCoded]

theorem EventCase.errorCoded {s s' : State} {e : Event} {outs : List Action} (hc : EventCase s e outs s') :
    ∀ x ∈ outs, x.ErrorCoded := by
  cases hc with
  | host _ _ _ _ _ _ _ hx => exact hx.errorCoded
  | issue _ _ _ _ _ hx => exact hx.errorCoded
  | _ => simp [Action.ErrorCoded]

/-- Settles O60: the codes by the tables, and the error responses by the cases of a step, each of which names the status
and the step of its response. -/
theorem statusAndStepCodes : Obligations.StatusAndStepCodes := by
  refine ⟨⟨rfl, rfl, rfl, rfl, rfl⟩, ⟨rfl, rfl, rfl, rfl, rfl, rfl⟩, fun s s' outs status k hx hp hm => ?_⟩
  obtain ⟨_, _, _, hc⟩ := step_cases_puts hx hp
  exact hc.errorCoded _ hm

end Sys2Proof.Machine
end

section
/-! Proofs about the Configuration Encoder: the word, its fields and its bytes (41_configuration_encoder.md R160,
R162, R163, R170). -/

namespace Sys2Proof.Machine

section fields

variable (m p : BitVec 3)

/-- The parts of the high byte do not overlap (41_configuration_encoder.md R168), so their disjunction is their
concatenation. -/
theorem highParts_eq_append :
    0x80#8 ||| (m.setWidth 8 <<< 4) ||| (p.setWidth 8 <<< 1) ||| 0x01#8 = 1#1 ++ m ++ p ++ 1#1 := by
  revert m p
  decide

/-- The parts of the whole word do not overlap either (R168). -/
theorem wordParts_eq_append :
    0x8000#16 ||| (m.setWidth 16 <<< 12) ||| (p.setWidth 16 <<< 9) ||| 0x0100#16 ||| 0x0003#16 =
      1#1 ++ m ++ p ++ 1#1 ++ 0x03#8 := by
  revert m p
  decide

end fields

theorem configWord_eq_cfgWord (c : Channel) (g : Gain) : configWord c g = cfgWord c g :=
  congrArg (· ++ Config.fixedLowByte) (highParts_eq_append c.mux g.controlBits)

section cfgWord

open BitVec

variable (c : Channel) (g : Gain)

/-- A field of the high byte is a field of what the fixed low byte is appended to. -/
theorem bits_cfgWord_of_le {lo len : Nat} (h : 8 ≤ lo) :
    bits (cfgWord c g) lo len = (1#1 ++ c.mux ++ g.controlBits ++ 1#1).extractLsb' (lo - 8) len :=
  extractLsb'_append_eq_of_le h

theorem cfgWord_mode : bits (cfgWord c g) 8 1 = 1#1 := by
  rw [bits_cfgWord_of_le c g (by decide), extractLsb'_append_eq_right]

theorem cfgWord_controlBits : bits (cfgWord c g) 9 3 = g.controlBits := by
  rw [bits_cfgWord_of_le c g (by decide), extractLsb'_append_eq_of_le (by decide), extractLsb'_append_eq_right]

theorem cfgWord_mux : bits (cfgWord c g) 12 3 = c.mux := by
  rw [bits_cfgWord_of_le c g (by decide), extractLsb'_append_eq_of_le (by decide),
    extractLsb'_append_eq_of_le (by decide), extractLsb'_append_eq_right]

theorem cfgWord_start : bits (cfgWord c g) 15 1 = 1#1 := by
  rw [bits_cfgWord_of_le c g (by decide), extractLsb'_append_eq_of_le (by decide),
    extractLsb'_append_eq_of_le (by decide), extractLsb'_append_eq_left]

end cfgWord

theorem lowByte_configWord (c : Channel) (g : Gain) : lowByte (configWord c g) = 0x03#8 := lowByte_append _ _

theorem highByte_configWord (c : Channel) (g : Gain) : highByte (configWord c g) = configHigh c g :=
  highByte_append _ _

/-- Settles O12: the word is the concatenation that its encoding string lays out, so each part is a field of it; its two
bytes are those it is put together from. -/
theorem configurationWordFields : Obligations.ConfigurationWordFields := by
  intro c g
  have hcat := configWord_eq_cfgWord c g
  refine ⟨rfl, hcat.trans (wordParts_eq_append _ _).symm, ?start, ?mux, ?controlBits, ?mode,
    lowByte_configWord c g, lowByte_configWord c g, highByte_configWord c g⟩
  case start => rw [hcat, cfgWord_start]
  case mux => rw [hcat, cfgWord_mux]
  case controlBits => rw [hcat, cfgWord_controlBits]
  case mode => rw [hcat, cfgWord_mode]

end Sys2Proof.Machine
end

section
/-! Proofs about the step: a case of `ExecCase` or `EventCase` is not only possible, it is what the operation or the
event does when the case's guard holds. -/

namespace Sys2Proof.Machine

/-- The converse of `exec_cases`: the guard of a case decides the next state. -/
theorem ExecCase.exec_eq {s s' : State} {i : Instr} {outs : List Action} (hc : ExecCase s i outs s') :
    exec i s = .next s' := by
  cases hc with
  | measureHeld c g hst => exact if_pos hst
  | measureNoHandle c g hst hhv => simp [exec, execMeasure, hst, hhv]
  | measureHold c g hst hhv hcp => simp [exec, execMeasure, hst, hhv, hcp]
  | measureWrite c g h a hst hhv hcp hh ha =>
    have hw : issueCfgWrite c g (s.latch c g) = _ := writeToDevice_bound hh ha
    simp [exec, execMeasure, hst, hhv, hcp, hw]
  | initHeld bus addr hst => exact if_pos hst
  | initOpen bus addr hst => exact if_neg (not_not_intro hst)
  | cancelNothing hst => obtain hst | hst | hst := hst <;> simp only [exec, execCancel, hst]
  | cancelNow hst => obtain hst | hst := hst <;> simp only [exec, execCancel, hst]
  | cancelLater hst => obtain hst | hst | hst := hst <;> simp only [exec, execCancel, hst]
  | encode c g => rfl
  | decode b0 b1 g hg => simp only [exec, execDecode, hg, withField_some]
  | cfgWrite c g h a hcp hhv hh ha => exact (if_pos ⟨hcp, hhv⟩).trans (writeToDevice_bound hh ha)
  | wait hst => exact if_pos hst
  | ptrSelect h a hh ha => exact writeToDevice_bound hh ha
  | resultRead h a hh ha => exact readFromDevice_bound hh ha
  | busOpen bus => rfl
  | busScan h => rfl

/-- The converse of `consume_cases`. -/
theorem EventCase.consume_eq {s s' : State} {e : Event} {outs : List Action} (hc : EventCase s e outs s') :
    consume e s = .next s' := by
  cases hc with
  | host w ws i _ _ hr hd hx => simp only [consume, onHost, hr, hd, hx.exec_eq]
  | issue m i _ _ hd hx => simp only [consume, onIssue, hd, hx.exec_eq]
  | openOk h hst => exact if_pos hst
  | openErr hst => exact if_pos hst
  | scanFound a present hst hi hm => simp only [consume, onScanDone, hst, hi, hm, withField_some, if_true]
  | scanAbsent a present hst hi hm => simp only [consume, onScanDone, hst, hi, hm, withField_some, if_true, if_false]
  | scanErr hst => exact if_pos hst
  | cfgOk c g hst hl hg hxp => simp [consume, onWriteDone, onCfgWriteDone, hst, hl, hg, hxp]
  | cfgOkCancelled c g hst hl hg hxp => simp [consume, onWriteDone, onCfgWriteDone, hst, hl, hg, hxp]
  | cfgErr hst => exact if_pos hst
  | selectOk h a hst hxp hh ha =>
    have hr : issueResultRead (s.setDev { s.dev with ptr := Config.regConversion }) = _ := readFromDevice_bound hh ha
    simp [consume, onWriteDone, onPtrSelectDone, hst, hxp, hr]
  | selectOkCancelled hst hxp => simp [consume, onWriteDone, onPtrSelectDone, hst, hxp]
  | selectErr hst => simp [consume, onWriteDone, onPtrSelectDone, hst]
  | readOkWarn b0 b1 g hst hxp hg hf => simp [consume, onReadDone, hst, hxp, hg]
  | readOk b0 b1 g hst hxp hg hf => simp [consume, onReadDone, hst, hxp, hg]
  | readOkCancelled b0 b1 hst hxp => simp [consume, onReadDone, hst, hxp]
  | readErr hst => exact if_pos hst
  | expireConverting h a hst hcp hh ha =>
    have hw : issuePtrSelect ((s.setConvPending false).setDev { s.dev with pending := false }) = _ :=
      writeToDevice_bound hh ha
    simp [consume, onTimerExpire, hst, hcp, hw]
  | expireHold c g h a hst hcp hl hg hh ha =>
    have hw : issueCfgWrite c g ((s.setConvPending false).setDev { s.dev with pending := false }) = _ :=
      writeToDevice_bound hh ha
    simp [consume, onTimerExpire, hst, hcp, hl, hg, hw]
  | expire hst hcp => obtain hst | hst | hst := hst <;> simp [consume, onTimerExpire, hst, hcp]
  | conversionEnd hp => exact if_pos hp
  | reset => rfl

/-- The step on an offered event is the one case of the event whose guard holds. -/
theorem EventCase.step_offer_eq {s s' : State} {e : Event} {outs : List Action} (hc : EventCase s e outs s') :
    step (s.offer e) = .next s' :=
  hc.consume_eq

end Sys2Proof.Machine
end

section
/-! Proofs about the Conversion Sequencer: what its operations issue (42_conversion_sequencer.md R180, R182, R188, R191,
R195). -/

namespace Sys2Proof.Machine

/-- An error that is answered in IDLE leaves the sequencer there (R180). -/
theorem errorExit_of_idle {status : Status} {k : ErrStep} {s : State} (hst : s.st = .idle) :
    errorExit status k s = { s with cancelPending := false, trace := s.trace ++ [.respond (.err status k)] } := by
  rw [hst]
  rfl

/-- Settles O15: a MEASURE word outside IDLE is held, and in IDLE each clause is one case of MEASURE. -/
theorem measureAcceptance : Obligations.MeasureAcceptance := by
  refine ⟨fun c g s hst => ?held, fun c g s hst => ⟨fun hhv => ?noHandle, fun hhv hcp => ?hold,
    fun h a hhv hcp hh ha => ?write⟩⟩
  case held => exact step_request_held (Laws.RoundTrip.measure c g) nofun hst
  case noHandle => rw [(ExecCase.measureNoHandle c g hst hhv).exec_eq, errorExit_of_idle hst]
  case hold => exact (ExecCase.measureHold c g hst hhv hcp).exec_eq
  case write =>
    rw [← cfgFrame_configWord]
    exact (ExecCase.measureWrite c g h a hst hhv hcp hh ha).exec_eq

/-- Settles O16: the frame F-W3 is the pointer of the Configuration Register and the two bytes of the word. -/
theorem cfgWriteIssuesTheFrame : Obligations.CfgWriteIssuesTheFrame :=
  fun c g _ h a hcp hhv hh ha => (ExecCase.cfgWrite c g h a hcp hhv hh ha).exec_eq

/-- Settles O19: the frame F-W1 is the pointer of the Conversion Register. -/
theorem ptrSelectIssuesTheFrame : Obligations.PtrSelectIssuesTheFrame :=
  fun _ h a hh ha => (ExecCase.ptrSelect h a hh ha).exec_eq

/-- A successful answer of another length than 2 has no step (42_conversion_sequencer.md R191). -/
theorem onReadDone_readLength {s : State} (hst : s.st = .reading) :
    ∀ {bytes : List Byte}, bytes.length ≠ 2 → onReadDone (.ok bytes) s = .fault (.readLength bytes.length)
  | [], _ => if_pos hst
  | [_], _ => if_pos hst
  | [_, _], hlen => absurd rfl hlen
  | _ :: _ :: _ :: _, _ => if_pos hst

/-- Settles O20: the read is the case of RESULT_READ, and the length of the answer is judged by its shape. -/
theorem resultReadIssuesTheRead : Obligations.ResultReadIssuesTheRead :=
  ⟨fun _ h a hh ha => (ExecCase.resultRead h a hh ha).exec_eq, fun _ _ hst hlen => onReadDone_readLength hst hlen⟩

/-- Settles O22: the three clauses are the three cases of CANCEL. -/
theorem cancelByState : Obligations.CancelByState := fun _ =>
  ⟨fun hst => (ExecCase.cancelNothing hst).exec_eq, fun hst => (ExecCase.cancelNow hst).exec_eq,
    fun hst => (ExecCase.cancelLater hst).exec_eq⟩

end Sys2Proof.Machine
end

section
/-! Proofs about the Conversion Sequencer: what the completions and the timer do (42_conversion_sequencer.md R181, R183,
R186, R187, R189, R190, R192, R193). -/

namespace Sys2Proof.Machine

/-- The error exit of a configuration write, which arms the timer before it answers (R183, R186). -/
theorem errorExit_armGuard (status : Status) (k : ErrStep) (s : State) :
    errorExit status k (armGuard s) =
      { s with
        st := .idle, convPending := true, cancelPending := false,
        trace := s.trace ++ [.timerArm Config.convDelay, .respond (.err status k)] } := by
  rw [List.append_cons]
  rfl

/-- A delivered sample: the warning exactly when `fs` is set, then the response, and IDLE (R192). -/
theorem deliverSample_eq (d : Sample) (s : State) :
    deliverSample d s =
      { s with
        st := .idle,
        trace := s.trace ++ (if d.fs = true then [.warn d.raw] else []) ++
          [.respond (.measOk d.code d.volts d.uv d.fs)] } := by
  cases hf : d.fs <;> simp [deliverSample, hf, finish, State.emit, State.setSt]

/-- Settles O23: the timer is armed in both cases of the successful write, with and without a pending cancel. -/
theorem cfgWriteSucceeds : Obligations.CfgWriteSucceeds := by
  refine fun s c g hst hl hg => ⟨fun hxp => ?converting, fun hxp => ?cancelled⟩
  case converting => exact ⟨_, (EventCase.cfgOk c g hst hl hg hxp).step_offer_eq⟩
  case cancelled =>
    have hstep := (EventCase.cfgOkCancelled c g hst hl hg hxp).step_offer_eq
    rw [errorExit_armGuard] at hstep
    exact ⟨_, hstep⟩

/-- Settles O24: the failed write has one case, whatever `cancel_pending` is. -/
theorem cfgWriteFails : Obligations.CfgWriteFails := by
  intro s hst
  have hstep := (EventCase.cfgErr hst).step_offer_eq
  rw [errorExit_armGuard] at hstep
  exact ⟨_, _, hstep⟩

/-- Settles O25: without the timer armed there is no step; with it, each clause is one case of TimerExpire. -/
theorem timerExpiry : Obligations.TimerExpiry := by
  refine fun s => ⟨fun hcp => ?notArmed, fun hcp hst => ?nothing, fun h a hcp hst hh ha => ?select,
    fun h a c g hcp hst hh ha hl hg => ?write⟩
  case notArmed => exact ⟨_, if_pos hcp⟩
  case nothing => exact ⟨_, (EventCase.expire hst hcp).step_offer_eq⟩
  case select => exact ⟨_, (EventCase.expireConverting h a hst hcp hh ha).step_offer_eq⟩
  case write =>
    rw [← cfgFrame_configWord]
    exact ⟨_, (EventCase.expireHold c g h a hst hcp hl hg hh ha).step_offer_eq⟩

/-- Settles O26: the two cases of the successful select and the one of the failed; none touches the timer. -/
theorem ptrSelectCompletes : Obligations.PtrSelectCompletes := fun _ hst =>
  ⟨fun h a hxp hh ha => ⟨_, (EventCase.selectOk h a hst hxp hh ha).step_offer_eq⟩,
    fun hxp => ⟨_, (EventCase.selectOkCancelled hst hxp).step_offer_eq⟩,
    _, _, (EventCase.selectErr hst).step_offer_eq⟩

/-- Settles O27, by whether a cancel is pending: with none the sample of the latched gain is delivered, with its warning
if it is full scale. -/
theorem resultReadSucceeds : Obligations.ResultReadSucceeds := by
  refine fun s b0 b1 hst => ⟨fun g hxp hg => ?delivered, fun hxp => ?cancelled⟩
  case delivered =>
    rw [← deliverSample_eq]
    cases hf : (decodeSample b0 b1 g).fs
    · exact (EventCase.readOk b0 b1 g hst hxp hg hf).step_offer_eq
    · exact (EventCase.readOkWarn b0 b1 g hst hxp hg hf).step_offer_eq
  case cancelled => exact (EventCase.readOkCancelled b0 b1 hst hxp).step_offer_eq

/-- Settles O28: the failed read has one case, and it answers no voltage. -/
theorem resultReadFails : Obligations.ResultReadFails :=
  fun _ hst => ⟨_, _, (EventCase.readErr hst).step_offer_eq⟩

end Sys2Proof.Machine
end

section
/-! Proofs about the Sample Decoder: the code, the microvolts and the full-scale flag (43_sample_decoder.md R230 to
R236). -/

namespace Sys2Proof

theorem Gain.lsbMicrovolts_mul (g : Gain) : g.lsbMicrovolts * 2048 = g.fullScaleMillivolts * 1000 := by
  cases g <;> rfl

theorem Gain.lsbMicrovolts_le (g : Gain) : g.lsbMicrovolts ≤ 3000 := by cases g <;> decide

end Sys2Proof

namespace Sys2Proof.Machine

/-- Settles O38: the model's definition is the four stages in the rule's order. -/
theorem decodeIsTheFourStages : Obligations.DecodeIsTheFourStages := fun _ _ _ => rfl

/-- The parts of the raw code do not overlap, so their disjunction is their sum (R231). -/
theorem reassemble_toNat (b0 b1 : Byte) : (reassemble b0 b1).toNat = 16 * b0.toNat + b1.toNat / 16 := by
  have h0 := b0.isLt
  have h1 : b1.toNat / 16 < 2 ^ 4 := by omega
  have hhigh : (b0.setWidth 12 <<< 4).toNat = 2 ^ 4 * b0.toNat := by
    simp only [BitVec.toNat_shiftLeft, BitVec.toNat_setWidth, Nat.shiftLeft_eq]
    omega
  have hlow : ((b1 >>> 4).setWidth 12).toNat = b1.toNat / 16 := by
    simp only [BitVec.toNat_setWidth, BitVec.toNat_ushiftRight, Nat.shiftRight_eq_div_pow]
    omega
  rw [reassemble, BitVec.toNat_or, hhigh, hlow, ← Nat.two_pow_add_eq_or_of_lt h1]

/-- The rule's disjunction with `0xF000` above `0x7FF` is sign extension: it subtracts `2^12` (R233). -/
theorem signExtendRaw_toInt (raw : BitVec 12) : (signExtendRaw raw).toInt = raw.toInt := by
  have hraw := raw.isLt
  have hwide : (raw.setWidth 16).toNat = raw.toNat := BitVec.toNat_setWidth_of_le (by decide)
  rw [signExtendRaw, BitVec.toInt_eq_toNat_cond, BitVec.toInt_eq_toNat_cond]
  split
  · have hor : (raw.setWidth 16 ||| 0xF000#16).toNat = 2 ^ 12 * 15 + raw.toNat := by
      rw [BitVec.toNat_or, hwide, Nat.or_comm, Nat.two_pow_add_eq_or_of_lt hraw]
      rfl
    rw [hor]
    omega
  · rw [hwide]
    omega

theorem decodeSample_code_toInt (b0 b1 : Byte) (g : Gain) :
    (decodeSample b0 b1 g).code.toInt = (reassemble b0 b1).toInt :=
  signExtendRaw_toInt _

theorem le_decodeSample_code (b0 b1 : Byte) (g : Gain) : -2048 ≤ (decodeSample b0 b1 g).code.toInt := by
  rw [decodeSample_code_toInt]
  exact BitVec.le_toInt _

theorem decodeSample_code_le (b0 b1 : Byte) (g : Gain) : (decodeSample b0 b1 g).code.toInt ≤ 2047 := by
  rw [decodeSample_code_toInt]
  exact Int.le_of_lt_add_one BitVec.toInt_lt

/-- The product fits in 24 bits for every code (R236). -/
theorem scaleMicrovolts_toInt (g : Gain) {s : Int} (hlo : -2048 ≤ s) (hhi : s ≤ 2048) :
    (scaleMicrovolts g s).toInt = s * g.lsbMicrovolts := by
  have hlsb : (g.lsbMicrovolts : Int) ≤ 3000 := by exact_mod_cast g.lsbMicrovolts_le
  rw [scaleMicrovolts, BitVec.toInt_ofInt]
  apply Int.bmod_eq_of_le <;> norm_num <;> nlinarith

/-- Settles O41: the code is a signed 12-bit number and no step is greater than 3000 microvolts. -/
theorem microvoltsAreExact : Obligations.MicrovoltsAreExact := by
  intro b0 b1 g
  have hlo := le_decodeSample_code b0 b1 g
  have hhi := decodeSample_code_le b0 b1 g
  have hlsb : (g.lsbMicrovolts : Int) ≤ 3000 := by exact_mod_cast g.lsbMicrovolts_le
  have huv : (decodeSample b0 b1 g).uv.toInt = (decodeSample b0 b1 g).code.toInt * g.lsbMicrovolts :=
    scaleMicrovolts_toInt g hlo (hhi.trans (by decide))
  refine ⟨huv, ?_, ?_, g.lsbMicrovolts_mul⟩ <;> rw [huv] <;> nlinarith

theorem fullScale_iff {raw : BitVec 12} : fullScale raw = true ↔ raw = 0x7FF#12 ∨ raw = 0x800#12 := by
  simp [fullScale]

end Sys2Proof.Machine
end

section
/-! Proofs about the Sample Decoder: when a step puts out a warning (43_sample_decoder.md R234, 60_exceptions.md
R306). -/

namespace Sys2Proof.Machine

/-- The actions that tell the host of a full-scale sample: the warning, and the response with its flag set. -/
def Action.tellsFullScale : Action → Bool
  | .warn _ => true
  | .respond (.measOk _ _ _ fs) => fs
  | _ => false

theorem ExecCase.not_tellsFullScale {s s' : State} {i : Instr} {outs : List Action} (hc : ExecCase s i outs s') :
    ∀ x ∈ outs, x.tellsFullScale = false := by
  cases hc <;> simp [Action.tellsFullScale]

/-- Only the delivery of a full-scale sample tells of one, by a warning and then its response. -/
theorem EventCase.tellsFullScale {s s' : State} {e : Event} {outs : List Action} (hc : EventCase s e outs s') :
    (∃ raw code volts uv, fullScale raw = true ∧ outs = [.warn raw, .respond (.measOk code volts uv true)]) ∨
      ∀ x ∈ outs, x.tellsFullScale = false := by
  cases hc with
  | host _ _ _ _ _ _ _ hx => exact .inr hx.not_tellsFullScale
  | issue _ _ _ _ _ hx => exact .inr hx.not_tellsFullScale
  | readOkWarn _ _ _ _ _ _ hf => exact .inl ⟨_, _, _, _, hf, rfl⟩
  | _ => exact .inr (by simp [Action.tellsFullScale])

/-- Settles O59, by the cases of a step: a step that tells of a full-scale sample does so by the warning and the
response. -/
theorem warningsComeWithFullScaleResults : Obligations.WarningsComeWithFullScaleResults := by
  intro s s' outs hx hp
  obtain ⟨_, _, _, hc⟩ := step_cases_puts hx hp
  obtain ⟨raw, code, volts, uv, hf, rfl⟩ | hnone := hc.tellsFullScale
  · refine ⟨fun raw' hm => ?_, fun _ _ _ _ => ⟨raw, List.mem_cons_self⟩⟩
    obtain rfl : raw' = raw := by simpa using hm
    exact ⟨fullScale_iff.mp hf, code, volts, uv, rfl⟩
  · refine ⟨fun _ hm => ?warn, fun _ _ _ hm => ?respond⟩
    case warn => simpa [Action.tellsFullScale] using hnone _ hm
    case respond => simpa [Action.tellsFullScale] using hnone _ hm

end Sys2Proof.Machine
end

section
/-! Proofs about binary64 arithmetic: rounding is monotone, and so are the operations made of it (00_scope.md R14). -/

namespace Sys2Proof.Binary64

/-- The magnitude that `round neg num den e` rounds. -/
def exactMagnitude (num den : Nat) (e : Int) : ℚ := (num : ℚ) / den * (2 : ℚ) ^ e

/-- The significand that `round neg num den e` puts in units of `2^unitExp`. -/
def significand (num den : Nat) (e : Int) : Nat :=
  roundQuotient (scaledNum num e (unitExp num den e)) (scaledDen den e (unitExp num den e))

/-- The exponent that `pack neg sig E` answers, or overflows by: a carry out of 53 bits moves it up. -/
def packedExp (sig : Nat) (E : Int) : Int := if sig = 2 ^ 53 then E + 1 else E

/-- Neither an overflow nor an invalid operation. -/
def isFinite : Binary64 → Bool
  | .finite _ _ _ => true
  | .inf _ => false
  | .nan => false

/-- A finite value, not greater in magnitude than another. -/
structure MagLe (a b : Binary64) : Prop where
  isFinite : a.isFinite = true
  abs_le : |a.value| ≤ |b.value|

/-- A finite value with this sign bit. -/
def HasSign (neg : Bool) (a : Binary64) : Prop := ∃ sig E, a = .finite neg sig E

section exactMagnitude

variable {num den : Nat} {e : Int}

theorem exactMagnitude_nonneg : 0 ≤ exactMagnitude num den e := by unfold exactMagnitude; positivity

theorem exactMagnitude_pos (hn : 0 < num) (hd : 0 < den) : 0 < exactMagnitude num den e := by
  unfold exactMagnitude
  positivity

theorem scaledDen_pos (hd : 0 < den) (e E : Int) : 0 < scaledDen den e E := Nat.mul_pos hd (Nat.two_pow_pos _)

/-- The scaled fraction is the exact magnitude in units of `2^E`. -/
theorem scaledNum_div_scaledDen (num den : Nat) (e E : Int) :
    (scaledNum num e E : ℚ) / scaledDen den e E = exactMagnitude num den e / (2 : ℚ) ^ E := by
  have hsub : (((e - E).toNat : Int) - ((E - e).toNat : Int)) = e - E := by omega
  have hpow : (2 : ℚ) ^ (e - E).toNat / (2 : ℚ) ^ (E - e).toNat = (2 : ℚ) ^ e / (2 : ℚ) ^ E := by
    rw [← zpow_natCast, ← zpow_natCast, ← zpow_sub₀ two_ne_zero, hsub, zpow_sub₀ two_ne_zero]
  rw [scaledNum, scaledDen, exactMagnitude, mul_div_assoc, ← hpow]
  push_cast
  rw [mul_div_mul_comm]

/-- The comparison by which `unitExp` corrects its estimate. -/
theorem scaled_quotient_lt_iff (hd : 0 < den) (E : Int) :
    scaledNum num e E / scaledDen den e E < 2 ^ 52 ↔ exactMagnitude num den e < (2 : ℚ) ^ (E + 52) := by
  have hD : (0 : ℚ) < scaledDen den e E := by exact_mod_cast scaledDen_pos hd e E
  have hE : (0 : ℚ) < (2 : ℚ) ^ E := by positivity
  rw [Nat.div_lt_iff_lt_mul (scaledDen_pos hd e E), ← Nat.cast_lt (α := ℚ), Nat.cast_mul, ← div_lt_iff₀ hD,
    scaledNum_div_scaledDen, div_lt_iff₀ hE, zpow_add₀ two_ne_zero, mul_comm]
  norm_num

theorem two_pow_div_two_pow_mul_zpow (m n : Nat) (e : Int) :
    (2 : ℚ) ^ m / 2 ^ n * 2 ^ e = 2 ^ ((m : Int) - n + e) := by
  rw [← zpow_natCast, ← zpow_natCast, ← zpow_sub₀ two_ne_zero, ← zpow_add₀ two_ne_zero]

/-- `unitExp`'s first estimate is the right exponent or one too great. -/
theorem exactMagnitude_bounds (hn : 0 < num) (hd : 0 < den) :
    (2 : ℚ) ^ ((Nat.log2 num : Int) - Nat.log2 den + e - 1) ≤ exactMagnitude num den e ∧
      exactMagnitude num den e < (2 : ℚ) ^ ((Nat.log2 num : Int) - Nat.log2 den + e + 1) := by
  have hn0 : (2 : ℚ) ^ Nat.log2 num ≤ num := by exact_mod_cast Nat.log2_self_le hn.ne'
  have hn1 : (num : ℚ) < 2 ^ (Nat.log2 num + 1) := by exact_mod_cast Nat.lt_log2_self
  have hd0 : (2 : ℚ) ^ Nat.log2 den ≤ den := by exact_mod_cast Nat.log2_self_le hd.ne'
  have hd1 : (den : ℚ) < 2 ^ (Nat.log2 den + 1) := by exact_mod_cast Nat.lt_log2_self
  have hden : (0 : ℚ) < den := by exact_mod_cast hd
  have he : (0 : ℚ) < (2 : ℚ) ^ e := by positivity
  constructor
  · calc (2 : ℚ) ^ ((Nat.log2 num : Int) - Nat.log2 den + e - 1)
      _ = (2 : ℚ) ^ Nat.log2 num / 2 ^ (Nat.log2 den + 1) * 2 ^ e := by
        rw [two_pow_div_two_pow_mul_zpow]
        congr 1
        push_cast
        ring
      _ ≤ exactMagnitude num den e := by
        unfold exactMagnitude
        gcongr
  · calc exactMagnitude num den e
      _ < (2 : ℚ) ^ (Nat.log2 num + 1) / 2 ^ Nat.log2 den * 2 ^ e := by
        unfold exactMagnitude
        gcongr
      _ = (2 : ℚ) ^ ((Nat.log2 num : Int) - Nat.log2 den + e + 1) := by
        rw [two_pow_div_two_pow_mul_zpow]
        congr 1
        push_cast
        ring

/-- The unit in the last place stands 52 binary places below the highest digit, or at the least subnormal. -/
theorem unitExp_eq (hn : 0 < num) (hd : 0 < den) :
    unitExp num den e = max (Int.log 2 (exactMagnitude num den e) - 52) minExp := by
  have hx : 0 < exactMagnitude num den e := exactMagnitude_pos hn hd
  obtain ⟨hlo, hhi⟩ := exactMagnitude_bounds (e := e) hn hd
  have hlo := (Int.zpow_le_iff_le_log (b := 2) one_lt_two hx).mp hlo
  have hhi := (Int.lt_zpow_iff_log_lt (b := 2) one_lt_two hx).mp hhi
  have hlt : ∀ E : Int, exactMagnitude num den e < (2 : ℚ) ^ (E + 52) ↔
      Int.log 2 (exactMagnitude num den e) < E + 52 := fun E => Int.lt_zpow_iff_log_lt (b := 2) one_lt_two hx
  simp only [unitExp, scaled_quotient_lt_iff hd, hlt]
  congr 1
  split <;> omega

theorem exactMagnitude_lt (hn : 0 < num) (hd : 0 < den) :
    exactMagnitude num den e < (2 : ℚ) ^ (unitExp num den e + 53) := by
  have hx : 0 < exactMagnitude num den e := exactMagnitude_pos hn hd
  refine (Int.lt_zpow_iff_log_lt (b := 2) one_lt_two hx).mpr ?_
  have := unitExp_eq (e := e) hn hd
  omega

/-- Above the least subnormal's exponent the significand has 53 bits. -/
theorem le_exactMagnitude (hn : 0 < num) (hd : 0 < den) (hE : minExp < unitExp num den e) :
    (2 : ℚ) ^ (unitExp num den e + 52) ≤ exactMagnitude num den e := by
  have hx : 0 < exactMagnitude num den e := exactMagnitude_pos hn hd
  refine (Int.zpow_le_iff_le_log (b := 2) one_lt_two hx).mpr ?_
  have := unitExp_eq (e := e) hn hd
  omega

end exactMagnitude

section roundQuotient

variable {N D N' D' : Nat}

theorem roundQuotient_one (n : Nat) : roundQuotient n 1 = n := by simp [roundQuotient, Nat.mod_one]

theorem div_le_roundQuotient : N / D ≤ roundQuotient N D := by
  unfold roundQuotient
  dsimp only
  split <;> omega

theorem roundQuotient_le_div_add_one : roundQuotient N D ≤ N / D + 1 := by
  unfold roundQuotient
  dsimp only
  split <;> omega

/-- Of two fractions with the same whole part the greater has the greater remainder, so it is not rounded lower. -/
theorem roundQuotient_mono (hD : 0 < D) (hD' : 0 < D') (h : (N : ℚ) / D ≤ (N' : ℚ) / D') :
    roundQuotient N D ≤ roundQuotient N' D' := by
  have hD₀ : (0 : ℚ) < D := by exact_mod_cast hD
  have hD₀' : (0 : ℚ) < D' := by exact_mod_cast hD'
  have hcross : N * D' ≤ N' * D := by exact_mod_cast (div_le_div_iff₀ hD₀ hD₀').mp h
  have hq : N / D ≤ N' / D' := by
    have := Nat.floor_le_floor h
    rwa [Nat.floor_div_eq_div, Nat.floor_div_eq_div] at this
  obtain hlt | heq := hq.lt_or_eq
  · exact roundQuotient_le_div_add_one.trans (hlt.trans_le div_le_roundQuotient)
  · have hN := Nat.div_add_mod N D
    have hN' := Nat.div_add_mod N' D'
    have hr : (N % D) * D' ≤ (N' % D') * D := by
      rw [heq] at hN
      nlinarith
    have hup : D < 2 * (N % D) → D' < 2 * (N' % D') := fun _ => by nlinarith
    have htie : D = 2 * (N % D) → D' ≤ 2 * (N' % D') := fun _ => by nlinarith
    grind [roundQuotient]

theorem roundQuotient_le {n : Nat} (hD : 0 < D) (h : (N : ℚ) / D ≤ n) : roundQuotient N D ≤ n := by
  rw [← roundQuotient_one n]
  exact roundQuotient_mono hD one_pos (by simpa using h)

theorem le_roundQuotient {n : Nat} (hD : 0 < D) (h : n ≤ (N : ℚ) / D) : n ≤ roundQuotient N D := by
  rw [← roundQuotient_one n]
  exact roundQuotient_mono one_pos hD (by simpa using h)

end roundQuotient

section significand

variable {num den : Nat} {e : Int}

theorem significand_le (hn : 0 < num) (hd : 0 < den) : significand num den e ≤ 2 ^ 53 := by
  refine roundQuotient_le (scaledDen_pos hd _ _) ?_
  rw [scaledNum_div_scaledDen, div_le_iff₀ (by positivity)]
  have := (exactMagnitude_lt (e := e) hn hd).le
  rw [zpow_add₀ two_ne_zero, mul_comm] at this
  exact_mod_cast this

theorem le_significand (hn : 0 < num) (hd : 0 < den) (hE : minExp < unitExp num den e) :
    2 ^ 52 ≤ significand num den e := by
  refine le_roundQuotient (scaledDen_pos hd _ _) ?_
  rw [scaledNum_div_scaledDen, le_div_iff₀ (by positivity)]
  have := le_exactMagnitude hn hd hE
  rw [zpow_add₀ two_ne_zero, mul_comm] at this
  exact_mod_cast this

end significand

section round

variable {num den num' den' : Nat} {e e' : Int}

theorem round_eq_pack (hn : 0 < num) (neg : Bool) :
    round neg num den e = pack neg (significand num den e) (unitExp num den e) :=
  if_neg hn.ne'

theorem abs_value_finite (neg : Bool) (sig : Nat) (E : Int) :
    |(finite neg sig E).value| = exactMagnitude sig 1 E := by
  cases neg <;> simp [value, exactMagnitude, abs_mul, abs_zpow]

theorem pack_eq (neg : Bool) (sig : Nat) (E : Int) :
    pack neg sig E =
      if maxExp < packedExp sig E then .inf neg
      else .finite neg (if sig = 2 ^ 53 then 2 ^ 52 else sig) (packedExp sig E) := by
  by_cases hsig : sig = 2 ^ 53 <;> simp only [pack, packedExp, hsig, if_true, if_false]

theorem isFinite_pack {neg : Bool} {sig : Nat} {E : Int} :
    (pack neg sig E).isFinite = true ↔ packedExp sig E ≤ maxExp := by
  rw [pack_eq]
  split
  · next h => exact iff_of_false nofun (not_le.mpr h)
  · next h => exact iff_of_true rfl (not_lt.mp h)

theorem pack_of_isFinite {neg : Bool} {sig : Nat} {E : Int} (h : (pack neg sig E).isFinite = true) :
    pack neg sig E = .finite neg (if sig = 2 ^ 53 then 2 ^ 52 else sig) (packedExp sig E) := by
  rw [pack_eq, if_neg (not_lt.mpr (isFinite_pack.mp h))]

/-- A carry out of 53 bits does not change the value. -/
theorem abs_value_pack {neg : Bool} {sig : Nat} {E : Int} (h : (pack neg sig E).isFinite = true) :
    |(pack neg sig E).value| = sig * (2 : ℚ) ^ E := by
  rw [pack_of_isFinite h, abs_value_finite, exactMagnitude, packedExp, Nat.cast_one, div_one]
  split
  · next hsig =>
    rw [hsig, zpow_add_one₀ two_ne_zero]
    push_cast
    ring
  · rfl

theorem unitExp_mono (hn : 0 < num) (hd : 0 < den) (hn' : 0 < num') (hd' : 0 < den')
    (h : exactMagnitude num den e ≤ exactMagnitude num' den' e') : unitExp num den e ≤ unitExp num' den' e' := by
  rw [unitExp_eq hn hd, unitExp_eq hn' hd']
  have := Int.log_mono_right (b := 2) (exactMagnitude_pos hn hd) h
  omega

theorem pack_magLe {neg neg' : Bool} {sig sig' : Nat} {E E' : Int} (hfin : (pack neg' sig' E').isFinite = true)
    (hexp : packedExp sig E ≤ packedExp sig' E')
    (hval : sig * (2 : ℚ) ^ E ≤ sig' * (2 : ℚ) ^ E') : MagLe (pack neg sig E) (pack neg' sig' E') := by
  have hleft : (pack neg sig E).isFinite = true := isFinite_pack.mpr (hexp.trans (isFinite_pack.mp hfin))
  exact ⟨hleft, by rwa [abs_value_pack hleft, abs_value_pack hfin]⟩

/-- At the same exponent the significands are monotone, and at a greater one the significand has 53 bits. -/
theorem round_magLe_of_pos (neg neg' : Bool) (hn : 0 < num) (hd : 0 < den) (hn' : 0 < num') (hd' : 0 < den')
    (h : exactMagnitude num den e ≤ exactMagnitude num' den' e')
    (hfin : (round neg' num' den' e').isFinite = true) :
    MagLe (round neg num den e) (round neg' num' den' e') := by
  rw [round_eq_pack hn]
  rw [round_eq_pack hn'] at hfin ⊢
  have hsig := significand_le (e := e) hn hd
  have hsig' := significand_le (e := e') hn' hd'
  obtain hlt | heq := (unitExp_mono hn hd hn' hd' h).lt_or_eq
  · refine pack_magLe hfin (by unfold packedExp; split <;> split <;> omega) ?_
    have hmin : minExp ≤ unitExp num den e := unitExp_eq (e := e) hn hd ▸ le_max_right _ _
    have hfull := le_significand hn' hd' (hmin.trans_lt hlt)
    calc (significand num den e : ℚ) * 2 ^ unitExp num den e
      _ ≤ 2 ^ 53 * 2 ^ unitExp num den e := by gcongr; exact_mod_cast hsig
      _ = 2 ^ 52 * 2 ^ (unitExp num den e + 1) := by rw [zpow_add_one₀ two_ne_zero]; ring
      _ ≤ significand num' den' e' * 2 ^ unitExp num' den' e' := by
        gcongr
        · exact_mod_cast hfull
        · exact one_le_two
        · exact hlt
  · have hmono : significand num den e ≤ significand num' den' e' := by
      refine roundQuotient_mono (scaledDen_pos hd _ _) (scaledDen_pos hd' _ _) ?_
      rw [scaledNum_div_scaledDen, scaledNum_div_scaledDen, heq]
      gcongr
    rw [heq]
    refine pack_magLe hfin (by unfold packedExp; split <;> split <;> omega) ?_
    gcongr

/-- Rounding is monotone in the magnitude, whatever the signs. -/
theorem round_magLe (neg neg' : Bool) (hd : 0 < den) (hd' : 0 < den')
    (h : exactMagnitude num den e ≤ exactMagnitude num' den' e')
    (hfin : (round neg' num' den' e').isFinite = true) :
    MagLe (round neg num den e) (round neg' num' den' e') := by
  obtain rfl | hn := num.eq_zero_or_pos
  · exact ⟨rfl, by simp [round, value]⟩
  obtain rfl | hn' := num'.eq_zero_or_pos
  · have := exactMagnitude_pos (e := e) hn hd
    simp [exactMagnitude] at h this
    linarith
  exact round_magLe_of_pos neg neg' hn hd hn' hd' h hfin

end round

section operations

variable {a a' b b' : Binary64}

theorem ofInt_magLe {m n : Int} (h : m.natAbs ≤ n.natAbs) (hfin : (ofInt n).isFinite = true) :
    MagLe (ofInt m) (ofInt n) := by
  refine round_magLe _ _ one_pos one_pos ?_ hfin
  unfold exactMagnitude
  gcongr

theorem isFinite_iff : a.isFinite = true ↔ ∃ n s E, a = .finite n s E := by
  cases a <;> simp [isFinite]

theorem isFinite_of_mul (h : (a.mul b).isFinite = true) : a.isFinite = true ∧ b.isFinite = true := by
  cases a <;> cases b <;> grind [mul, isFinite]

theorem div_finite {n n' : Bool} {s s' : Nat} {E E' : Int} (hs' : 0 < s') :
    (finite n s E).div (finite n' s' E') = round (n ^^ n') s s' (E - E') :=
  if_neg hs'.ne'

theorem isFinite_of_div (h : (a.div b).isFinite = true) : a.isFinite = true := by
  cases a <;> cases b <;> simp_all [div, isFinite]

theorem exactMagnitude_mul (s s' : Nat) (E E' : Int) :
    exactMagnitude (s * s') 1 (E + E') = exactMagnitude s 1 E * exactMagnitude s' 1 E' := by
  simp only [exactMagnitude, zpow_add₀ (two_ne_zero (α := ℚ))]
  push_cast
  ring

theorem exactMagnitude_div (s s' : Nat) (E E' : Int) :
    exactMagnitude s s' (E - E') = exactMagnitude s 1 E / exactMagnitude s' 1 E' := by
  simp only [exactMagnitude, zpow_sub₀ (two_ne_zero (α := ℚ))]
  push_cast
  rw [div_one, div_one, mul_div_mul_comm]

/-- A product is monotone in the magnitude of its second factor. -/
theorem mul_magLe (h : MagLe b b') (hfin : (a.mul b').isFinite = true) : MagLe (a.mul b) (a.mul b') := by
  obtain ⟨ha, hb'⟩ := isFinite_of_mul hfin
  obtain ⟨hb, hle⟩ := h
  obtain ⟨n, s, E, rfl⟩ := isFinite_iff.mp ha
  obtain ⟨n₁, s₁, E₁, rfl⟩ := isFinite_iff.mp hb
  obtain ⟨n₂, s₂, E₂, rfl⟩ := isFinite_iff.mp hb'
  rw [abs_value_finite, abs_value_finite] at hle
  refine round_magLe _ _ one_pos one_pos ?_ hfin
  rw [exactMagnitude_mul, exactMagnitude_mul]
  exact mul_le_mul_of_nonneg_left hle exactMagnitude_nonneg

/-- A quotient is monotone in the magnitude of its dividend. -/
theorem div_magLe {n : Bool} {s : Nat} {E : Int} (hs : 0 < s) (h : MagLe a a')
    (hfin : (a'.div (.finite n s E)).isFinite = true) :
    MagLe (a.div (.finite n s E)) (a'.div (.finite n s E)) := by
  obtain ⟨ha, hle⟩ := h
  obtain ⟨n₁, s₁, E₁, rfl⟩ := isFinite_iff.mp ha
  obtain ⟨n₂, s₂, E₂, rfl⟩ := isFinite_iff.mp (isFinite_of_div hfin)
  rw [abs_value_finite, abs_value_finite] at hle
  rw [div_finite hs] at hfin
  rw [div_finite hs, div_finite hs]
  refine round_magLe _ _ hs hs ?_ hfin
  rw [exactMagnitude_div, exactMagnitude_div]
  exact div_le_div_of_nonneg_right hle exactMagnitude_nonneg

end operations

section HasSign

variable {a b : Binary64} {n m : Bool}

theorem round_hasSign {neg : Bool} {num den : Nat} {e : Int} (h : (round neg num den e).isFinite = true) :
    HasSign neg (round neg num den e) := by
  obtain rfl | hn := num.eq_zero_or_pos
  · exact ⟨0, minExp, rfl⟩
  rw [round_eq_pack hn] at h ⊢
  exact ⟨_, _, pack_of_isFinite h⟩

theorem mul_hasSign (ha : HasSign n a) (hb : HasSign m b) (h : (a.mul b).isFinite = true) :
    HasSign (n ^^ m) (a.mul b) := by
  obtain ⟨s, E, rfl⟩ := ha
  obtain ⟨s', E', rfl⟩ := hb
  exact round_hasSign h

theorem div_hasSign {s : Nat} {E : Int} (hs : 0 < s) (ha : HasSign n a)
    (h : (a.div (.finite m s E)).isFinite = true) : HasSign (n ^^ m) (a.div (.finite m s E)) := by
  obtain ⟨s₁, E₁, rfl⟩ := ha
  rw [div_finite hs] at h ⊢
  exact round_hasSign h

theorem HasSign.value_nonneg (h : HasSign false a) : 0 ≤ a.value := by
  obtain ⟨s, E, rfl⟩ := h
  have hmag : (0 : ℚ) ≤ s * 2 ^ E := by positivity
  simpa [value] using hmag

theorem HasSign.value_nonpos (h : HasSign true a) : a.value ≤ 0 := by
  obtain ⟨s, E, rfl⟩ := h
  have hmag : (0 : ℚ) ≤ s * 2 ^ E := by positivity
  simpa [value] using hmag

end HasSign

end Sys2Proof.Binary64
end

section
/-! Proofs about the Sample Decoder: the voltage's sign and range, and the source's two properties of the decoder
(43_sample_decoder.md R235, R239, R240). -/

namespace Sys2Proof.Machine

open Binary64

/-- The voltage is monotone in the magnitude of the code. -/
theorem scaleVolts_magLe (g : Gain) {s t : Int} (h : s.natAbs ≤ t.natAbs) (hfin : (scaleVolts g t).isFinite = true) :
    MagLe (scaleVolts g s) (scaleVolts g t) := by
  have hmul := isFinite_of_div hfin
  have hint := (isFinite_of_mul hmul).2
  exact div_magLe (Nat.two_pow_pos 52) (mul_magLe (ofInt_magLe h hint) hmul) hfin

theorem scaleVolts_least_isFinite (g : Gain) : (scaleVolts g (-2048)).isFinite = true := by cases g <;> rfl

theorem scaleVolts_isFinite (g : Gain) {s : Int} (h : s.natAbs ≤ 2048) : (scaleVolts g s).isFinite = true :=
  (scaleVolts_magLe g (t := -2048) h (scaleVolts_least_isFinite g)).isFinite

theorem abs_scaleVolts_le (g : Gain) {s t : Int} (h : s.natAbs ≤ t.natAbs) (ht : t.natAbs ≤ 2048) :
    |(scaleVolts g s).value| ≤ |(scaleVolts g t).value| :=
  (scaleVolts_magLe g h (scaleVolts_isFinite g ht)).abs_le

/-- The voltage has the sign of the code. -/
theorem scaleVolts_hasSign (g : Gain) {s : Int} (h : s.natAbs ≤ 2048) :
    HasSign (decide (s < 0)) (scaleVolts g s) := by
  have hdiv := scaleVolts_isFinite g h
  have hmul := isFinite_of_div hdiv
  obtain ⟨hfs, hint⟩ := isFinite_of_mul hmul
  have hprod := mul_hasSign (round_hasSign hfs) (round_hasSign hint) hmul
  have hquot : HasSign ((false ^^ decide (s < 0)) ^^ false) (scaleVolts g s) :=
    div_hasSign (Nat.two_pow_pos 52) hprod hdiv
  rwa [Bool.xor_false, Bool.false_xor] at hquot

theorem scaleVolts_nonneg (g : Gain) {s : Int} (h0 : 0 ≤ s) (h : s ≤ 2048) : 0 ≤ (scaleVolts g s).value := by
  have hsign := scaleVolts_hasSign g (s := s) (by omega)
  rw [decide_eq_false (not_lt.mpr h0)] at hsign
  exact hsign.value_nonneg

theorem scaleVolts_nonpos (g : Gain) {s : Int} (h0 : s < 0) (h : -2048 ≤ s) : (scaleVolts g s).value ≤ 0 := by
  have hsign := scaleVolts_hasSign g (s := s) (by omega)
  rw [decide_eq_true h0] at hsign
  exact hsign.value_nonpos

/-- No voltage but that of the code 0 is rounded to zero: that of the code 1 is not. -/
theorem scaleVolts_ne_zero (g : Gain) {s : Int} (h0 : s ≠ 0) (h : s.natAbs ≤ 2048) : (scaleVolts g s).value ≠ 0 := by
  have hone : 0 < |(scaleVolts g 1).value| := by
    obtain ⟨n, sig, E, heq, hsig⟩ : ∃ n sig E, scaleVolts g 1 = .finite n sig E ∧ 0 < sig := by
      cases g <;> exact ⟨_, _, _, rfl, by decide⟩
    rw [heq, abs_value_finite]
    exact exactMagnitude_pos hsig one_pos
  exact abs_pos.mp (hone.trans_le (abs_scaleVolts_le g (s := 1) (Int.natAbs_pos.mpr h0) h))

theorem scaleVolts_neg (g : Gain) {s : Int} (h0 : s < 0) (h : -2048 ≤ s) : (scaleVolts g s).value < 0 :=
  (scaleVolts_nonpos g h0 h).lt_of_ne (scaleVolts_ne_zero g h0.ne (by omega))

/-- The code 2047 has the greatest voltage: no negative code has a positive one. -/
theorem scaleVolts_le_greatest (g : Gain) {s : Int} (hlo : -2048 ≤ s) (hhi : s ≤ 2047) :
    (scaleVolts g s).value ≤ (scaleVolts g 2047).value := by
  have htop : 0 ≤ (scaleVolts g 2047).value := scaleVolts_nonneg g (by decide) (by decide)
  obtain hneg | hpos := lt_or_ge s 0
  · exact (scaleVolts_nonpos g hneg hlo).trans htop
  · calc (scaleVolts g s).value
      _ ≤ |(scaleVolts g s).value| := le_abs_self _
      _ ≤ |(scaleVolts g 2047).value| := abs_scaleVolts_le g (by omega) (by decide)
      _ = (scaleVolts g 2047).value := abs_of_nonneg htop

/-- The code -2048, the greatest in magnitude, has the least voltage. -/
theorem least_le_scaleVolts (g : Gain) {s : Int} (h : s.natAbs ≤ 2048) :
    (scaleVolts g (-2048)).value ≤ (scaleVolts g s).value := by
  have hbot : (scaleVolts g (-2048)).value ≤ 0 := scaleVolts_nonpos g (by decide) (by decide)
  calc (scaleVolts g (-2048)).value
    _ = -|(scaleVolts g (-2048)).value| := by rw [abs_of_nonpos hbot, neg_neg]
    _ ≤ -|(scaleVolts g s).value| := neg_le_neg (abs_scaleVolts_le g h (by decide))
    _ ≤ (scaleVolts g s).value := neg_abs_le _

/-- The two bytes of a raw code are put together again (43_sample_decoder.md R239). -/
theorem reassemble_bytes {v : Nat} (hv : v < 2 ^ 12) :
    reassemble (BitVec.ofNat 8 (v / 16)) (BitVec.ofNat 8 (v % 16 * 16)) = BitVec.ofNat 12 v := by
  apply BitVec.eq_of_toNat_eq
  simp only [reassemble_toNat, BitVec.toNat_ofNat]
  omega

/-- A raw code below the positive full scale is its own code and has no flag. -/
theorem decodeSample_bytes {v : Nat} (g : Gain) (hv : v ≤ 0x7FE) :
    decodeSample (BitVec.ofNat 8 (v / 16)) (BitVec.ofNat 8 (v % 16 * 16)) g =
      { raw := BitVec.ofNat 12 v, code := signExtendRaw (BitVec.ofNat 12 v), volts := scaleVolts g v,
        uv := scaleMicrovolts g v, fs := false } := by
  have hcode : (signExtendRaw (BitVec.ofNat 12 v)).toInt = v := by
    rw [signExtendRaw_toInt, BitVec.toInt_eq_toNat_of_lt (by rw [BitVec.toNat_ofNat]; omega), BitVec.toNat_ofNat]
    omega
  have hfs : fullScale (BitVec.ofNat 12 v) = false := by
    rw [Bool.eq_false_iff, Ne, fullScale_iff, ← BitVec.toNat_inj, ← BitVec.toNat_inj, BitVec.toNat_ofNat]
    simp only [BitVec.toNat_ofNat]
    omega
  rw [decodeSample, reassemble_bytes (by omega), hcode, hfs]

theorem decodeSample_volts (b0 b1 : Byte) (g : Gain) :
    (decodeSample b0 b1 g).volts = scaleVolts g (decodeSample b0 b1 g).code.toInt := rfl

/-- Settles O46: the codes by evaluation, and the voltages by the sign and the monotonicity of `scaleVolts`. -/
theorem sourcePropertiesOfDecode : Obligations.SourcePropertiesOfDecode := by
  refine ⟨fun v g hv => ?positive, fun g => ?corners⟩
  case positive =>
    rw [decodeSample_bytes g hv]
    exact ⟨rfl, scaleVolts_nonneg g (by omega) (by omega), scaleMicrovolts_toInt g (by omega) (by omega), rfl⟩
  case corners =>
    have hneg : (decodeSample 0x80#8 0x10#8 g).code.toInt = -2047 := rfl
    have hmax : (decodeSample 0x7F#8 0xF0#8 g).code.toInt = 2047 := rfl
    have hmin : (decodeSample 0x80#8 0x00#8 g).code.toInt = -2048 := rfl
    simp only [decodeSample_volts, hneg, hmax, hmin]
    refine ⟨trivial, scaleVolts_neg g (by decide) (by decide), trivial, rfl, trivial, rfl, fun b0 b1 => ?_⟩
    have hlo := le_decodeSample_code b0 b1 g
    have hhi := decodeSample_code_le b0 b1 g
    exact ⟨scaleVolts_le_greatest g hlo hhi, least_le_scaleVolts g (by omega)⟩

end Sys2Proof.Machine
end

section
/-! Proofs about initialization: INIT, the two transport calls and their completions (44_initialization.md R260 to
R266). -/

namespace Sys2Proof.Machine

/-- Settles O31: an INIT word outside IDLE is held, and in IDLE the step is the opening case of INIT. -/
theorem initAcceptance : Obligations.InitAcceptance :=
  ⟨fun bus addr _ hst => step_request_held (Laws.RoundTrip.init bus addr) nofun hst,
    fun bus addr _ hst => (ExecCase.initOpen bus addr hst).exec_eq⟩

/-- Settles O32: each call has one case, without a guard. -/
theorem transportCallsAreIssued : Obligations.TransportCallsAreIssued :=
  ⟨fun bus _ => (ExecCase.busOpen bus).exec_eq, fun h _ => (ExecCase.busScan h).exec_eq⟩

/-- Settles O33: the two cases of OpenDone; the failure leaves the device unspecified (20_memory.md R85). -/
theorem busOpenCompletes : Obligations.BusOpenCompletes := fun _ hst =>
  ⟨fun h => (EventCase.openOk h hst).step_offer_eq, _, _, (EventCase.openErr hst).step_offer_eq⟩

/-- Settles O34: the three cases of ScanDone, the successful one split by membership in the list. -/
theorem busScanCompletes : Obligations.BusScanCompletes := by
  refine fun s hst => ⟨fun a present hi hm => ?found, fun a present hi hm => ?absent, ?failed⟩
  case found => exact (EventCase.scanFound a present hst hi hm).step_offer_eq
  case absent => exact (EventCase.scanAbsent a present hst hi hm).step_offer_eq
  case failed => exact ⟨_, _, (EventCase.scanErr hst).step_offer_eq⟩

end Sys2Proof.Machine
end

section
/-! Proofs about the error exit: what a step that answers an error does and leaves unchanged (60_exceptions.md R302). -/

namespace Sys2Proof.Machine

/-- `t` is `s` but for the environment, its device and its ports: the fields of the block (10_state.md R35) and the
outputs are the same. -/
def State.SameBlock (s t : State) : Prop :=
  ∃ dev req sched draws, t = { s with dev := dev, req := req, sched := sched, draws := draws }

theorem State.SameBlock.st_eq {s t : State} (h : s.SameBlock t) : t.st = s.st := by
  obtain ⟨_, _, _, _, rfl⟩ := h
  rfl

theorem takeRequest_sameBlock (i : Instr) (s : State) : s.SameBlock (takeRequest i s) := by
  unfold takeRequest
  split <;> exact ⟨_, _, _, _, rfl⟩

/-- The two ways in which a step from `s` answers an error: by the error exit alone, or, at the end of a configuration
write, with the timer armed before it (R302 item 4, 42_conversion_sequencer.md R183 and R186). -/
inductive ErrorExitCase (s : State) : List Action → State → Prop where
  | plain (status : Status) (k : ErrStep) (t : State) (hst : s.st ≠ .cfgWriting) (ht : s.SameBlock t) :
      ErrorExitCase s [.respond (.err status k)] (errorExit status k t)
  | guarded (status : Status) (k : ErrStep) (t : State) (hst : s.st = .cfgWriting) (ht : s.SameBlock t) :
      ErrorExitCase s [.timerArm Config.convDelay, .respond (.err status k)] (errorExit status k (armGuard t))

/-- An operation answers an error only by MEASURE in IDLE and by CANCEL in HOLD or CONVERTING. -/
theorem ExecCase.errorExitCase {s t s' : State} {i : Instr} {outs : List Action} (hc : ExecCase t i outs s')
    (ht : s.SameBlock t) : ErrorExitCase s outs s' ∨ ∀ status k, Action.respond (.err status k) ∉ outs := by
  cases hc with
  | measureNoHandle _ _ hst => exact .inl (.plain _ _ t (by simp [← ht.st_eq, hst]) ht)
  | cancelNow hst => exact .inl (.plain _ _ t (by obtain hst | hst := hst <;> simp [← ht.st_eq, hst]) ht)
  | _ => exact .inr (by simp)

/-- Of the events that end in an error, only the completions of a configuration write arm the timer. -/
theorem EventCase.errorExitCase {s s' : State} {e : Event} {outs : List Action} (hc : EventCase s e outs s') :
    ErrorExitCase s outs s' ∨ ∀ status k, Action.respond (.err status k) ∉ outs := by
  cases hc with
  | host _ _ i _ _ _ _ hx => exact hx.errorExitCase (takeRequest_sameBlock i s)
  | issue _ _ _ _ _ hx => exact hx.errorExitCase ⟨_, _, _, _, rfl⟩
  | openErr hst => exact .inl (.plain _ _ _ (by simp [hst]) ⟨_, _, _, _, rfl⟩)
  | scanAbsent _ _ hst => exact .inl (.plain _ _ _ (by simp [hst]) ⟨_, _, _, _, rfl⟩)
  | scanErr hst => exact .inl (.plain _ _ _ (by simp [hst]) ⟨_, _, _, _, rfl⟩)
  | cfgOkCancelled _ _ hst => exact .inl (.guarded _ _ _ hst ⟨_, _, _, _, rfl⟩)
  | cfgErr hst => exact .inl (.guarded _ _ _ hst ⟨_, _, _, _, rfl⟩)
  | selectOkCancelled hst => exact .inl (.plain _ _ _ (by simp [hst]) ⟨_, _, _, _, rfl⟩)
  | selectErr hst => exact .inl (.plain _ _ _ (by simp [hst]) ⟨_, _, _, _, rfl⟩)
  | readOkCancelled _ _ hst => exact .inl (.plain _ _ _ (by simp [hst]) ⟨_, _, _, _, rfl⟩)
  | readErr hst => exact .inl (.plain _ _ _ (by simp [hst]) ⟨_, _, _, _, rfl⟩)
  | _ => exact .inr (by simp)

/-- Settles O58: a step that answers an error is one of the two cases of the error exit, each from a state with the
block's fields before the step, and only the one that ends a configuration write touches the timer. -/
theorem errorExitFrame : Obligations.ErrorExitFrame := by
  intro s s' outs status k hx hp hm
  obtain ⟨_, rest, _, hc⟩ := step_cases_puts hx hp
  obtain hexit | hnone := hc.errorExitCase
  · cases hexit with
    | plain _ _ t hst ht =>
      obtain ⟨_, _, _, _, rfl⟩ := ht
      exact ⟨rfl, rfl, rfl, rfl, rfl, rfl, rfl, rfl, fun h => absurd h hst, fun _ => rfl, by simp [Action.onTransport],
        by simp⟩
    | guarded _ _ t hst ht =>
      obtain ⟨_, _, _, _, rfl⟩ := ht
      exact ⟨rfl, rfl, rfl, rfl, rfl, rfl, rfl, rfl, fun _ => rfl, fun h => absurd hst h, by simp [Action.onTransport],
        by simp⟩
  · exact absurd hm (hnone status k)

end Sys2Proof.Machine
end

section
/-! Proofs about the reset step (70_reset_and_hazards.md R340, R341). -/

namespace Sys2Proof.Machine

/-- Settles O35: the event has one case, without a guard; the device is left unspecified (R341), which spends one draw
of its free values. -/
theorem resetStep : Obligations.ResetStep := fun s =>
  ⟨Device.unspecified s.draws, s.draws + 1, EventCase.reset.step_offer_eq⟩

end Sys2Proof.Machine
end

section
/-! Proofs about the encoding: the round trips between instructions and words, and the words that decode
(30_encoding.md R110 to R130). -/

namespace Sys2Proof

/-- Settles O1, by the round trip of each constructor. -/
theorem decodeOfEncodeIsTheInstruction : Obligations.DecodeOfEncodeIsTheInstruction := by
  intro i _
  cases i with
  | measure c g => exact Laws.RoundTrip.measure c g
  | init bus addr => exact Laws.RoundTrip.init bus addr
  | cancel => exact Laws.RoundTrip.cancel
  | encode c g => exact Laws.RoundTrip.encode c g
  | decode b0 b1 => exact Laws.RoundTrip.decode b0 b1
  | cfgWrite c g => exact Laws.RoundTrip.cfgWrite c g
  | wait => exact Laws.RoundTrip.wait
  | ptrSelect => exact Laws.RoundTrip.ptrSelect
  | resultRead => exact Laws.RoundTrip.resultRead
  | busOpen bus => exact Laws.RoundTrip.busOpen bus
  | busScan h => exact Laws.RoundTrip.busScan h

section fields

variable (w : Word16)

/-- Two fields side by side are one field. -/
theorem bits_append {hi lo m n : Nat} (h : hi = lo + n) : bits w hi m ++ bits w lo n = bits w lo (m + n) :=
  BitVec.extractLsb'_append_extractLsb'_eq_extractLsb' h

theorem bits_all : bits w 0 16 = w := BitVec.extractLsb'_eq_self

/-- The fields of a MEASURE word are all its bits (30_encoding.md R110). -/
theorem measureFields_append : bits w 8 8 ++ bits w 5 3 ++ bits w 2 3 ++ bits w 0 2 = w := by
  rw [bits_append w (hi := 8) rfl, bits_append w (hi := 5) rfl, bits_append w (hi := 2) rfl, bits_all]

/-- The fields of an INIT word are all its bits (R110). -/
theorem initFields_append : bits w 9 7 ++ bits w 2 7 ++ bits w 0 2 = w := by
  rw [bits_append w (hi := 9) rfl, bits_append w (hi := 2) rfl, bits_all]

/-- The fields of a configuration word are all its bits (R111). -/
theorem cfgFields_append : bits w 15 1 ++ bits w 12 3 ++ bits w 9 3 ++ bits w 8 1 ++ bits w 0 8 = w := by
  rw [bits_append w (hi := 15) rfl, bits_append w (hi := 12) rfl, bits_append w (hi := 9) rfl,
    bits_append w (hi := 8) rfl, bits_all]

end fields

section decoded

variable {w : Word16} {c : Channel} {g : Gain} {i : Instr}

/-- The cases of `op` (30_encoding.md R120). -/
theorem op_cases (w : Word16) :
    bits w 0 2 = 0b00#2 ∨ bits w 0 2 = 0b01#2 ∨ bits w 0 2 = 0b10#2 ∨ bits w 0 2 = 0b11#2 := by
  generalize bits w 0 2 = op
  revert op
  decide

theorem encode_of_decodeMeasure (hop : bits w 0 2 = 0b00#2) (hd : decodeMeasure w = .ok i) : encode i = .cmd w := by
  simp only [decodeMeasure] at hd
  split at hd
  · cases hd
  · split at hd <;> cases hd
    rename_i hres _ _ c g hc hg
    have hword : measureWord c g = w := by
      rw [measureWord, Channel.index_of_ofIndex hc, Gain.index_of_ofIndex hg, ← hop, ← Classical.not_not.mp hres]
      exact measureFields_append w
    exact congrArg OpWord.cmd hword

theorem initWord_of_op (hop : bits w 0 2 = 0b01#2) : initWord (bits w 9 7) (bits w 2 7) = w := by
  rw [initWord, ← hop]
  exact initFields_append w

theorem decode_cmd_cancel_ok (hop : bits w 0 2 = 0b10#2) (hres : bits w 2 14 = 0#14) :
    decode (.cmd w) = .ok .cancel := by
  simp [decode, decodeCmd, hop, hres]

/-- A command word that decodes is the word of its instruction, by its `op`. -/
theorem encode_of_decodeCmd (hd : decode (.cmd w) = .ok i) : encode i = .cmd w := by
  obtain hop | hop | hop | hop := op_cases w
  · exact encode_of_decodeMeasure hop (decode_cmd_measure hop ▸ hd)
  · cases decode_cmd_init hop ▸ hd
    exact congrArg OpWord.cmd (initWord_of_op hop)
  · by_cases hres : bits w 2 14 = 0#14
    · have hc := decode_cmd_cancel_ok hop hres
      cases hc ▸ hd
      exact congrArg OpWord.cmd (decode_cmd_cancel hc).symm
    · cases decode_cmd_cancel_reserved hop hres ▸ hd
  · cases decode_cmd_reservedOp hop ▸ hd

/-- A configuration word that decodes is the word of its channel and gain. -/
theorem cfgWord_of_decodeCfg (hd : decodeCfg w = .ok (c, g)) : cfgWord c g = w := by
  simp only [decodeCfg] at hd
  split at hd
  · cases hd
  · rename_i hfix
    simp only [not_or, Classical.not_not] at hfix
    obtain ⟨hstart, hmode, hlow⟩ := hfix
    split at hd <;> cases hd
    rename_i hc hg
    rw [cfgWord, Channel.mux_of_ofMux hc, Gain.controlBits_of_ofControlBits hg, ← hlow]
    conv_rhs => rw [← cfgFields_append w, hstart, hmode]

/-- A frame that decodes is one of the two of the block (R113, R114). -/
theorem encode_of_decodeFrame {bytes : List Byte} (hd : decodeFrame bytes = .ok i) :
    encode i = .internal (.frame bytes) := by
  unfold decodeFrame at hd
  split at hd
  · split at hd <;> cases hd
    subst ‹_ = pointerByte _›
    rfl
  · split at hd
    · split at hd <;> cases hd
      rename_i hi lo hp _ _ _ hcfg
      simp only [encode, cfgFrame, cfgWord_of_decodeCfg hcfg, highByte_append, lowByte_append, hp]
    · cases hd
  · cases hd

end decoded

/-- Settles O2, by the format of the word: each field that the decoder reads is a field that the encoder writes, and
together they are all bits of the word. -/
theorem encodeOfDecodeIsTheWord : Obligations.EncodeOfDecodeIsTheWord := by
  intro o i hd
  cases o with
  | cmd w => exact encode_of_decodeCmd hd
  | internal m =>
    cases m with
    | cfg w =>
      simp only [decode, decodeInternal] at hd
      split at hd <;> cases hd
      rw [encode, cfgWord_of_decodeCfg ‹_›]
    | conv w =>
      cases hd
      rw [encode, highByte_lowByte]
    | frame bytes => exact encode_of_decodeFrame hd
    | read n =>
      simp only [decode, decodeInternal] at hd
      split at hd <;> cases hd
      subst ‹n = _›
      rfl
    | timer => cases hd; rfl
    | openCall bus => cases hd; rfl
    | scanCall h => cases hd; rfl

section matching

variable {w mask pattern : Word16}

/-- A field on all bits of which the mask is set is that of the pattern. -/
theorem bits_of_matchesMask (h : matchesMask w mask pattern = true) (lo len : Nat)
    (hmask : bits mask lo len = BitVec.allOnes len) : bits w lo len = bits pattern lo len := by
  have h : w &&& mask = pattern := by simpa [matchesMask] using h
  rw [← h]
  simp only [bits] at hmask ⊢
  rw [BitVec.extractLsb'_and, hmask, BitVec.and_allOnes]

/-- The index ranges of the opcode table speak of three-bit fields. -/
theorem shiftRight_mod_eight_toNat (w : Word16) (lo : Nat) : ((w >>> lo) % 8#16).toNat = (bits w lo 3).toNat := by
  simp [bits]

theorem shiftRight_mod_eight_lt {lo : Nat} : (w >>> lo) % 8#16 < 6#16 ↔ (bits w lo 3).toNat < 6 := by
  rw [BitVec.lt_def, shiftRight_mod_eight_toNat]
  rfl

theorem Channel.exists_ofIndex {i : BitVec 3} : i.toNat < 6 → ∃ c, Channel.ofIndex i = some c := by
  simp only [← Option.isSome_iff_exists]
  revert i
  decide

theorem Gain.exists_ofIndex {i : BitVec 3} : i.toNat < 6 → ∃ g, Gain.ofIndex i = some g := by
  simp only [← Option.isSome_iff_exists]
  revert i
  decide

theorem Channel.exists_ofMux {m : BitVec 3} : m.toNat ≠ 1 → m.toNat ≠ 2 → ∃ c, Channel.ofMux m = some c := by
  simp only [← Option.isSome_iff_exists]
  revert m
  decide

theorem Gain.exists_ofControlBits {p : BitVec 3} : p.toNat < 6 → ∃ g, Gain.ofControlBits p = some g := by
  simp only [← Option.isSome_iff_exists]
  revert p
  decide

theorem decode_of_isMeasureWord (h : isMeasureWord w = true) : ∃ i, decode (.cmd w) = .ok i := by
  simp only [isMeasureWord, Bool.and_eq_true, decide_eq_true_eq, shiftRight_mod_eight_lt] at h
  obtain ⟨⟨hmatch, hchan⟩, hgain⟩ := h
  obtain ⟨c, hc⟩ := Channel.exists_ofIndex hchan
  obtain ⟨g, hg⟩ := Gain.exists_ofIndex hgain
  rw [decode_cmd_measure (bits_of_matchesMask hmatch 0 2 rfl)]
  exact ⟨_, decodeMeasure_ok (bits_of_matchesMask hmatch 8 8 rfl) (Channel.index_of_ofIndex hc).symm
    (Gain.index_of_ofIndex hg).symm⟩

theorem decode_of_isInitWord (h : isInitWord w = true) : ∃ i, decode (.cmd w) = .ok i :=
  ⟨_, decode_cmd_init (bits_of_matchesMask h 0 2 rfl)⟩

theorem eq_cancelWord_of_isCancelWord (h : isCancelWord w = true) : w = cancelWord := by
  have := bits_of_matchesMask h 0 16 rfl
  rwa [bits_all, bits_all] at this

theorem decodeCfg_of_isCfgWord (h : isCfgWord w = true) : ∃ c g, decodeCfg w = .ok (c, g) := by
  simp only [isCfgWord, Bool.and_eq_true, bne_iff_ne, ne_eq, decide_eq_true_eq, shiftRight_mod_eight_lt,
    ← BitVec.toNat_inj, shiftRight_mod_eight_toNat] at h
  obtain ⟨⟨⟨hmatch, hmux1⟩, hmux2⟩, hpga⟩ := h
  obtain ⟨c, hc⟩ := Channel.exists_ofMux hmux1 hmux2
  obtain ⟨g, hg⟩ := Gain.exists_ofControlBits hpga
  have hstart : bits w 15 1 = 1#1 := bits_of_matchesMask hmatch 15 1 rfl
  have hmode : bits w 8 1 = 1#1 := bits_of_matchesMask hmatch 8 1 rfl
  have hlow : bits w 0 8 = Config.fixedLowByte := bits_of_matchesMask hmatch 0 8 rfl
  exact ⟨c, g, by simp [decodeCfg, hstart, hmode, hlow, hc, hg]⟩

theorem decode_of_isWriteFrame {bytes : List Byte} (h : isWriteFrame bytes = true) :
    ∃ i, decode (.internal (.frame bytes)) = .ok i := by
  unfold isWriteFrame at h
  split at h
  · obtain rfl := eq_of_beq h
    exact ⟨_, rfl⟩
  · rename_i p hi lo
    rw [Bool.and_eq_true] at h
    obtain ⟨hp, hcfg⟩ := h
    obtain rfl := eq_of_beq hp
    obtain ⟨c, g, hcg⟩ := decodeCfg_of_isCfgWord hcfg
    refine ⟨.cfgWrite c g, ?_⟩
    have hptr : (0x01#8 : Byte) = pointerByte Config.regConfig := rfl
    simp only [decode, decodeInternal, decodeFrame, hptr, hcg, if_true]
  · cases h

end matching

/-- The words that the opcode table allows decode. -/
theorem decode_of_wellFormed {o : OpWord} (h : o.wellFormed = true) : ∃ i, decode o = .ok i := by
  cases o with
  | cmd w =>
    simp only [OpWord.wellFormed, Bool.or_eq_true] at h
    obtain (h | h) | h := h
    · exact decode_of_isMeasureWord h
    · exact decode_of_isInitWord h
    · exact eq_cancelWord_of_isCancelWord h ▸ ⟨_, Laws.RoundTrip.cancel⟩
  | internal m =>
    cases m with
    | cfg w =>
      obtain ⟨c, g, hcg⟩ := decodeCfg_of_isCfgWord h
      exact ⟨.encode c g, by simp only [decode, decodeInternal, hcg]⟩
    | frame bytes => exact decode_of_isWriteFrame h
    | read n => exact ⟨.resultRead, if_pos (eq_of_beq h)⟩
    | conv w => exact ⟨_, rfl⟩
    | timer => exact ⟨_, rfl⟩
    | openCall bus => exact ⟨_, rfl⟩
    | scanCall h => exact ⟨_, rfl⟩

theorem isInitWord_initWord (bus : BusId) (addr : DevAddr) : isInitWord (initWord bus addr) = true := by
  have hop : (initWord bus addr).toNat % 4 = 1 := by
    simpa [bits] using congrArg BitVec.toNat (initWord_op bus addr)
  have hmask : (initWord bus addr).toNat &&& 2 ^ 2 - 1 = 1 := by rwa [Nat.and_two_pow_sub_one_eq_mod]
  simpa [isInitWord, matchesMask, ← BitVec.toNat_inj] using hmask

theorem isCfgWord_cfgWord (c : Channel) (g : Gain) : isCfgWord (cfgWord c g) = true := by
  cases c <;> cases g <;> rfl

/-- What the encoder writes is what the opcode table allows. -/
theorem encode_wellFormed (i : Instr) : (encode i).wellFormed = true := by
  cases i with
  | measure c g => cases c <;> cases g <;> rfl
  | init bus addr => simp [encode, OpWord.wellFormed, isInitWord_initWord]
  | encode c g => exact isCfgWord_cfgWord c g
  | cfgWrite c g =>
    have hcfg := isCfgWord_cfgWord c g
    rw [← highByte_lowByte (cfgWord c g)] at hcfg
    simp only [encode, cfgFrame, OpWord.wellFormed, InternalWord.wellFormed, isWriteFrame, hcfg]
    rfl
  | _ => rfl

/-- Settles O3: a word that decodes is one that the encoder writes, and those are well-formed. -/
theorem decoderAcceptsExactlyTheWellFormedWords : Obligations.DecoderAcceptsExactlyTheWellFormedWords :=
  fun o => ⟨fun ⟨i, hd⟩ => encodeOfDecodeIsTheWord o i hd ▸ encode_wellFormed i, decode_of_wellFormed⟩

/-- Settles O5, by evaluation of the decoder on each word. -/
theorem wordsOfTheSpecDecode : Obligations.WordsOfTheSpecDecode := ⟨rfl, rfl, rfl, rfl, rfl, rfl, rfl, rfl⟩

end Sys2Proof
end

section
/-! Proofs about the invariants: those of the sequencer and those about written fields hold wherever a run starts, and
every step keeps them (42_conversion_sequencer.md R198, 10_state.md R44, 44_initialization.md R269). -/

namespace Sys2Proof.Machine

/-- What a measurement has written at its acceptance (42_conversion_sequencer.md R198 item 4). -/
abbrev MeasurementFields (s : State) : Prop := s.hv = true ∧ s.lch.isSome = true ∧ s.lg.isSome = true

section sequencerInv

variable {s : State}

/-! What the invariants of the sequencer ask in each group of states. -/

theorem sequencerInv_of_idle (hst : s.st = .idle) (hxp : s.cancelPending = false) : SequencerInv s := by
  simp [SequencerInv, hst, hxp, FsmState.onBus, FsmState.measuring]

theorem sequencerInv_of_initializing (hst : s.st = .opening ∨ s.st = .scanning) (hxp : s.cancelPending = false)
    (hhv : s.hv = false) : SequencerInv s := by
  obtain hst | hst := hst <;> simp [SequencerInv, hst, hxp, hhv, FsmState.onBus, FsmState.measuring]

theorem sequencerInv_of_waiting (hst : s.st = .hold ∨ s.st = .converting) (hcp : s.convPending = true)
    (hxp : s.cancelPending = false) (hm : MeasurementFields s) : SequencerInv s := by
  obtain hst | hst := hst <;> simp [SequencerInv, hst, hcp, hxp, hm, FsmState.onBus]

theorem sequencerInv_of_onBus (hst : s.st.onBus = true) (hcp : s.convPending = false) (hm : MeasurementFields s) :
    SequencerInv s := by
  obtain hst | hst | hst := FsmState.onBus_iff.mp hst <;> simp [SequencerInv, hst, hcp, hm, FsmState.onBus]

/-! What they give. -/

theorem SequencerInv.noCancel (h : SequencerInv s) (hst : s.st.onBus = false) : s.cancelPending = false := by
  obtain ⟨_, _, hxp, _⟩ := h
  rw [hst] at hxp
  exact Bool.eq_false_of_not_eq_true fun h => nomatch hxp h

theorem SequencerInv.fields (h : SequencerInv s) (hst : s.st.measuring = true) : MeasurementFields s := by
  obtain ⟨_, _, _, hm, _⟩ := h
  exact hm hst

theorem SequencerInv.guardClear (h : SequencerInv s) (hst : s.st.onBus = true) : s.convPending = false := by
  obtain ⟨_, hcp, _⟩ := h
  exact hcp hst

theorem SequencerInv.noHandle (h : SequencerInv s) (hst : s.st = .opening ∨ s.st = .scanning) : s.hv = false := by
  obtain ⟨_, _, _, _, hhv⟩ := h
  exact hhv hst

end sequencerInv

theorem FsmState.measuring_of_onBus {st : FsmState} (h : st.onBus = true) : st.measuring = true := by
  obtain rfl | rfl | rfl := onBus_iff.mp h <;> rfl

/-- The invariants speak of the block, not of the environment. -/
theorem State.SameBlock.sequencerInv {s t : State} (ht : s.SameBlock t) (h : SequencerInv s) : SequencerInv t := by
  obtain ⟨_, _, _, _, rfl⟩ := ht
  exact h

theorem ExecCase.sequencerInv {s s' : State} {i : Instr} {outs : List Action} (hc : ExecCase s i outs s')
    (h : SequencerInv s) : SequencerInv s' := by
  cases hc with
  | measureNoHandle _ _ hst _ => exact sequencerInv_of_idle rfl rfl
  | measureHold _ _ hst hhv hcp =>
    exact sequencerInv_of_waiting (.inl rfl) hcp (h.noCancel (by rw [hst]; rfl)) ⟨hhv, rfl, rfl⟩
  | measureWrite _ _ _ _ hst hhv hcp => exact sequencerInv_of_onBus rfl hcp ⟨hhv, rfl, rfl⟩
  | initOpen _ _ hst => exact sequencerInv_of_initializing (.inl rfl) (h.noCancel (by rw [hst]; rfl)) rfl
  | cancelNow => exact sequencerInv_of_idle rfl rfl
  | cancelLater hst =>
    have hbus : s.st.onBus = true := FsmState.onBus_iff.mpr hst
    exact sequencerInv_of_onBus hbus (h.guardClear hbus) (h.fields (FsmState.measuring_of_onBus hbus))
  | _ => exact h

theorem EventCase.sequencerInv {s s' : State} {e : Event} {outs : List Action} (hc : EventCase s e outs s')
    (h : SequencerInv s) : SequencerInv s' := by
  cases hc with
  | host _ _ i _ _ _ _ hx => exact hx.sequencerInv ((takeRequest_sameBlock i s).sequencerInv h)
  | issue _ _ _ _ _ hx => exact hx.sequencerInv h
  | openOk _ hst =>
    exact sequencerInv_of_initializing (.inr rfl) (h.noCancel (by rw [hst]; rfl)) (h.noHandle (.inl hst))
  | scanFound _ _ hst => exact sequencerInv_of_idle rfl (h.noCancel (by rw [hst]; rfl))
  | cfgOk _ _ hst hc hg hxp => exact sequencerInv_of_waiting (.inr rfl) rfl hxp (h.fields (by rw [hst]; rfl))
  | selectOk _ _ hst =>
    exact sequencerInv_of_onBus rfl (h.guardClear (by rw [hst]; rfl)) (h.fields (by rw [hst]; rfl))
  | readOkWarn _ _ _ _ hxp => exact sequencerInv_of_idle rfl (by rwa [deliverSample_cancelPending])
  | readOk _ _ _ _ hxp => exact sequencerInv_of_idle rfl (by rwa [deliverSample_cancelPending])
  | expireConverting _ _ hst => exact sequencerInv_of_onBus rfl rfl (h.fields (by rw [hst]; rfl))
  | expireHold _ _ _ _ hst => exact sequencerInv_of_onBus rfl rfl (h.fields (by rw [hst]; rfl))
  | expire hst =>
    obtain hst | hst := hst
    · exact sequencerInv_of_idle hst (h.noCancel (by rw [hst]; rfl))
    · exact sequencerInv_of_initializing hst (h.noCancel (by obtain hst | hst := hst <;> rw [hst] <;> rfl))
        (h.noHandle hst)
  | conversionEnd => exact h
  | _ => exact sequencerInv_of_idle rfl rfl

/-- Settles O48, by the cases of a step: the state that a case leads to asks for what the case's guard and the
invariants before it give. -/
theorem everyStepKeepsTheSequencerInvariants : Obligations.EveryStepKeepsTheSequencerInvariants := by
  intro s s' h hx
  obtain ⟨_, _, _, _, hc⟩ := step_cases hx
  exact hc.sequencerInv h

section writtenInv

variable {s : State}

/-- Outside INIT only the handle and the address matter. -/
theorem writtenInv_of_not_initializing (ho : s.st ≠ .opening) (hs : s.st ≠ .scanning) (h : HandleInv s) :
    WrittenInv s :=
  ⟨h, fun hst => (hst.elim ho hs).elim, fun hst => (hs hst).elim⟩

/-- Without a handle nothing is asked of it. -/
theorem handleInv_of_noHandle (hhv : s.hv = false) : HandleInv s := fun h => nomatch hhv.symm.trans h

theorem WrittenInv.handle (h : WrittenInv s) : HandleInv s := by
  obtain ⟨hh, _⟩ := h
  exact hh

theorem WrittenInv.iaddr_isSome (h : WrittenInv s) (hst : s.st = .opening ∨ s.st = .scanning) :
    s.iaddr.isSome = true := by
  obtain ⟨_, hi, _⟩ := h
  exact hi hst

theorem WrittenInv.hbus_isSome (h : WrittenInv s) (hst : s.st = .scanning) : s.hbus.isSome = true := by
  obtain ⟨_, _, hb⟩ := h
  exact hb hst

end writtenInv

theorem State.SameBlock.writtenInv {s t : State} (ht : s.SameBlock t) (h : WrittenInv s) : WrittenInv t := by
  obtain ⟨_, _, _, _, rfl⟩ := ht
  exact h

theorem ExecCase.writtenInv {s s' : State} {i : Instr} {outs : List Action} (hc : ExecCase s i outs s')
    (h : WrittenInv s) : WrittenInv s' := by
  cases hc with
  | measureNoHandle => exact writtenInv_of_not_initializing nofun nofun h.handle
  | measureHold => exact writtenInv_of_not_initializing nofun nofun h.handle
  | measureWrite => exact writtenInv_of_not_initializing nofun nofun h.handle
  | initOpen => exact ⟨handleInv_of_noHandle rfl, fun _ => rfl, nofun⟩
  | cancelNow => exact writtenInv_of_not_initializing nofun nofun h.handle
  | _ => exact h

theorem deliverSample_handleInv {s : State} (d : Sample) (h : HandleInv s) : HandleInv (deliverSample d s) := by
  simpa [HandleInv] using h

theorem EventCase.writtenInv {s s' : State} {e : Event} {outs : List Action} (hc : EventCase s e outs s')
    (h : WrittenInv s) : WrittenInv s' := by
  cases hc with
  | host _ _ i _ _ _ _ hx => exact hx.writtenInv ((takeRequest_sameBlock i s).writtenInv h)
  | issue _ _ _ _ _ hx => exact hx.writtenInv h
  | openOk _ hst =>
    refine ⟨fun hhv => ?_, fun _ => h.iaddr_isSome (.inl hst), fun _ => rfl⟩
    obtain ⟨_, ha⟩ := h.handle hhv
    exact ⟨rfl, ha⟩
  | scanFound _ _ hst hi =>
    exact writtenInv_of_not_initializing nofun nofun fun _ => ⟨h.hbus_isSome hst, rfl, hi.symm⟩
  | readOkWarn => exact writtenInv_of_not_initializing nofun nofun (deliverSample_handleInv _ h.handle)
  | readOk => exact writtenInv_of_not_initializing nofun nofun (deliverSample_handleInv _ h.handle)
  | expire => exact h
  | conversionEnd => exact h
  | reset => exact writtenInv_of_not_initializing nofun nofun (handleInv_of_noHandle rfl)
  | _ => exact writtenInv_of_not_initializing nofun nofun h.handle

/-- Settles O49, by the cases of a step: only INIT and its completions write the handle and the addresses. -/
theorem everyStepKeepsTheWrittenFields : Obligations.EveryStepKeepsTheWrittenFields := by
  intro s s' h hx
  obtain ⟨_, _, _, _, hc⟩ := step_cases hx
  exact hc.writtenInv h

theorem CleanEntry.blockInv {s : State} (h : CleanEntry s) : BlockInv s := by
  obtain ⟨hst, hxp, _, hh⟩ := h
  exact ⟨sequencerInv_of_idle hst hxp, writtenInv_of_not_initializing (by simp [hst]) (by simp [hst]) hh⟩

theorem cleanEntry_reset : CleanEntry State.reset := ⟨rfl, rfl, fun _ => rfl, handleInv_of_noHandle rfl⟩

/-- Settles O47: reset is a clean entry, with the timer armed and no handle, and a clean entry meets the invariants. -/
theorem invariantsHoldAfterReset : Obligations.InvariantsHoldAfterReset :=
  ⟨cleanEntry_reset.blockInv, cleanEntry_reset, fun _ => CleanEntry.blockInv⟩

end Sys2Proof.Machine
end

section
/-! Proofs about the enabled events: in a state that meets the invariants the events of 42_conversion_sequencer.md R197
have a step, and none reads an unwritten field (10_state.md R44). -/

namespace Sys2Proof.Machine

section progress

variable {s : State}

theorem openDone_next (hst : s.st = .opening) : ∀ r, ∃ s', consume (.openDone r) s = .next s'
  | .ok h => ⟨_, (EventCase.openOk h hst).consume_eq⟩
  | .err => ⟨_, (EventCase.openErr hst).consume_eq⟩

theorem scanDone_next (h : BlockInv s) (hst : s.st = .scanning) : ∀ r, ∃ s', consume (.scanDone r) s = .next s' := by
  obtain ⟨_, hw⟩ := h
  obtain ⟨a, hi⟩ := Option.isSome_iff_exists.mp (hw.iaddr_isSome (.inr hst))
  intro r
  cases r with
  | ok present =>
    by_cases hm : a ∈ present
    · exact ⟨_, (EventCase.scanFound a present hst hi hm).consume_eq⟩
    · exact ⟨_, (EventCase.scanAbsent a present hst hi hm).consume_eq⟩
  | err => exact ⟨_, (EventCase.scanErr hst).consume_eq⟩

theorem HandleInv.bound (h : HandleInv s) (hhv : s.hv = true) : ∃ hd a, s.hbus = some hd ∧ s.haddr = some a := by
  obtain ⟨hb, ha, _⟩ := h hhv
  obtain ⟨hd, hb⟩ := Option.isSome_iff_exists.mp hb
  obtain ⟨a, ha⟩ := Option.isSome_iff_exists.mp ha
  exact ⟨hd, a, hb, ha⟩

theorem BlockInv.handle (h : BlockInv s) : HandleInv s := by
  obtain ⟨_, hw⟩ := h
  exact hw.handle

theorem BlockInv.guardClear (h : BlockInv s) (hst : s.st.onBus = true) : s.convPending = false := by
  obtain ⟨hs, _⟩ := h
  exact hs.guardClear hst

/-- In a measurement every field that it reads is written. -/
theorem BlockInv.written (h : BlockInv s) (hst : s.st.measuring = true) :
    ∃ c g hd a, s.lch = some c ∧ s.lg = some g ∧ s.hbus = some hd ∧ s.haddr = some a := by
  obtain ⟨hs, hw⟩ := h
  obtain ⟨hhv, hc, hg⟩ := hs.fields hst
  obtain ⟨c, hc⟩ := Option.isSome_iff_exists.mp hc
  obtain ⟨g, hg⟩ := Option.isSome_iff_exists.mp hg
  obtain ⟨hd, a, hb, ha⟩ := hw.handle.bound hhv
  exact ⟨c, g, hd, a, hc, hg, hb, ha⟩

theorem writeDone_next (h : BlockInv s) (hst : s.st = .cfgWriting ∨ s.st = .selecting) :
    ∀ r, ∃ s', consume (.writeDone r) s = .next s' := by
  obtain ⟨c, g, hd, a, hc, hg, hb, ha⟩ := h.written (by obtain hst | hst := hst <;> rw [hst] <;> rfl)
  obtain hst | hst := hst
  · rintro (⟨⟨⟩⟩ | _)
    · cases hxp : s.cancelPending with
      | false => exact ⟨_, (EventCase.cfgOk c g hst hc hg hxp).consume_eq⟩
      | true => exact ⟨_, (EventCase.cfgOkCancelled c g hst hc hg hxp).consume_eq⟩
    · exact ⟨_, (EventCase.cfgErr hst).consume_eq⟩
  · rintro (⟨⟨⟩⟩ | _)
    · cases hxp : s.cancelPending with
      | false => exact ⟨_, (EventCase.selectOk hd a hst hxp hb ha).consume_eq⟩
      | true => exact ⟨_, (EventCase.selectOkCancelled hst hxp).consume_eq⟩
    · exact ⟨_, (EventCase.selectErr hst).consume_eq⟩

theorem readDone_ok_next (h : BlockInv s) (hst : s.st = .reading) (b0 b1 : Byte) :
    ∃ s', consume (.readDone (.ok [b0, b1])) s = .next s' := by
  obtain ⟨_, g, _, _, _, hg, _⟩ := h.written (by rw [hst]; rfl)
  cases hxp : s.cancelPending with
  | true => exact ⟨_, (EventCase.readOkCancelled b0 b1 hst hxp).consume_eq⟩
  | false =>
    cases hf : (decodeSample b0 b1 g).fs with
    | true => exact ⟨_, (EventCase.readOkWarn b0 b1 g hst hxp hg hf).consume_eq⟩
    | false => exact ⟨_, (EventCase.readOk b0 b1 g hst hxp hg hf).consume_eq⟩

theorem readDone_err_next (hst : s.st = .reading) : ∃ s', consume (.readDone .err) s = .next s' :=
  ⟨_, (EventCase.readErr hst).consume_eq⟩

/-- With the timer armed no bus operation of a measurement is outstanding, so its expiry has a step. -/
theorem timerExpire_next (h : BlockInv s) (hcp : s.convPending = true) : ∃ s', consume .timerExpire s = .next s' := by
  have hbus : s.st.onBus = false := Bool.eq_false_of_not_eq_true fun hb => by simp [h.guardClear hb] at hcp
  cases hst : s.st with
  | idle => exact ⟨_, (EventCase.expire (.inl hst) hcp).consume_eq⟩
  | opening => exact ⟨_, (EventCase.expire (.inr (.inl hst)) hcp).consume_eq⟩
  | scanning => exact ⟨_, (EventCase.expire (.inr (.inr hst)) hcp).consume_eq⟩
  | hold =>
    obtain ⟨c, g, hd, a, hc, hg, hb, ha⟩ := h.written (by rw [hst]; rfl)
    exact ⟨_, (EventCase.expireHold c g hd a hst hcp hc hg hb ha).consume_eq⟩
  | converting =>
    obtain ⟨_, _, hd, a, _, _, hb, ha⟩ := h.written (by rw [hst]; rfl)
    exact ⟨_, (EventCase.expireConverting hd a hst hcp hb ha).consume_eq⟩
  | cfgWriting => rw [hst] at hbus; cases hbus
  | selecting => rw [hst] at hbus; cases hbus
  | reading => rw [hst] at hbus; cases hbus

theorem measure_next (h : HandleInv s) (c : Channel) (g : Gain) : ∃ s', exec (.measure c g) s = .next s' := by
  by_cases hst : s.st = .idle
  · cases hhv : s.hv with
    | false => exact ⟨_, (ExecCase.measureNoHandle c g hst hhv).exec_eq⟩
    | true =>
      cases hcp : s.convPending with
      | true => exact ⟨_, (ExecCase.measureHold c g hst hhv hcp).exec_eq⟩
      | false =>
        obtain ⟨hd, a, hb, ha⟩ := h.bound hhv
        exact ⟨_, (ExecCase.measureWrite c g hd a hst hhv hcp hb ha).exec_eq⟩
  · exact ⟨_, (ExecCase.measureHeld c g hst).exec_eq⟩

theorem cancel_next (s : State) : ∃ s', exec .cancel s = .next s' := by
  cases hst : s.st with
  | idle => exact ⟨_, (ExecCase.cancelNothing (.inl hst)).exec_eq⟩
  | opening => exact ⟨_, (ExecCase.cancelNothing (.inr (.inl hst))).exec_eq⟩
  | scanning => exact ⟨_, (ExecCase.cancelNothing (.inr (.inr hst))).exec_eq⟩
  | hold => exact ⟨_, (ExecCase.cancelNow (.inl hst)).exec_eq⟩
  | converting => exact ⟨_, (ExecCase.cancelNow (.inr hst)).exec_eq⟩
  | cfgWriting => exact ⟨_, (ExecCase.cancelLater (.inl hst)).exec_eq⟩
  | selecting => exact ⟨_, (ExecCase.cancelLater (.inr (.inl hst))).exec_eq⟩
  | reading => exact ⟨_, (ExecCase.cancelLater (.inr (.inr hst))).exec_eq⟩

theorem command_next (h : HandleInv s) {w : Word16} {i : Instr} (hd : decode (.cmd w) = .ok i) :
    ∃ s', exec i s = .next s' := by
  obtain ⟨c, g, rfl⟩ | ⟨bus, addr, rfl⟩ | rfl := decode_cmd_cases hd
  · exact measure_next h c g
  · exact exec_init_next bus addr s
  · exact cancel_next s

end progress

/-- No operation touches the request port. -/
theorem ExecCase.req_eq {s s' : State} {i : Instr} {outs : List Action} (hc : ExecCase s i outs s') :
    s'.req = s.req := by
  cases hc <;> rfl

/-- An accepted command has a step that leaves the rest of the port as it was. -/
theorem step_request_taken {s : State} (h : HandleInv s) {w : Word16} {i : Instr} (hd : decode (.cmd w) = .ok i)
    (ht : s.st = .idle ∨ i = .cancel) : ∃ s', step (s.request w) = .next s' ∧ s'.req = s.req := by
  obtain ⟨s', hx⟩ := command_next h hd
  obtain ⟨_, hc⟩ := exec_cases hx
  exact ⟨s', (step_request_accepted hd ht).trans hx, hc.req_eq⟩

section guard

variable {s s' : State}

theorem opening_of_openDone {r : Reply BusHandle} (hx : consume (.openDone r) s = .next s') : s.st = .opening := by
  obtain ⟨_, hc⟩ := consume_cases hx
  cases hc <;> assumption

theorem scanning_of_scanDone {r : Reply (List DevAddr)} (hx : consume (.scanDone r) s = .next s') :
    s.st = .scanning := by
  obtain ⟨_, hc⟩ := consume_cases hx
  cases hc <;> assumption

theorem writing_of_writeDone {r : Reply Unit} (hx : consume (.writeDone r) s = .next s') :
    s.st = .cfgWriting ∨ s.st = .selecting := by
  obtain ⟨_, hc⟩ := consume_cases hx
  cases hc with
  | cfgOk _ _ hst | cfgOkCancelled _ _ hst | cfgErr hst => exact .inl hst
  | selectOk _ _ hst | selectOkCancelled hst | selectErr hst => exact .inr hst

theorem reading_of_readDone {r : Reply (List Byte)} (hx : consume (.readDone r) s = .next s') : s.st = .reading := by
  obtain ⟨_, hc⟩ := consume_cases hx
  cases hc <;> assumption

theorem armed_of_timerExpire (hx : consume .timerExpire s = .next s') : s.convPending = true := by
  obtain ⟨_, hc⟩ := consume_cases hx
  cases hc <;> assumption

end guard

/-- Settles O10: each event's cases name the state that enables it, and there the invariants give the fields that its
step reads; a command that is not accepted stays presented. -/
theorem enabledEvents : Obligations.EnabledEvents := by
  intro s h
  simp only [step_offer]
  refine ⟨fun r => ⟨fun ⟨_, hx⟩ => opening_of_openDone hx, fun hst => openDone_next hst r⟩,
    fun r => ⟨fun ⟨_, hx⟩ => scanning_of_scanDone hx, fun hst => scanDone_next h hst r⟩,
    fun r => ⟨fun ⟨_, hx⟩ => writing_of_writeDone hx, fun hst => writeDone_next h hst r⟩,
    fun b0 b1 => ⟨fun ⟨_, hx⟩ => reading_of_readDone hx, fun hst => readDone_ok_next h hst b0 b1⟩,
    ⟨fun ⟨_, hx⟩ => reading_of_readDone hx, readDone_err_next⟩,
    ⟨fun ⟨_, hx⟩ => armed_of_timerExpire hx, timerExpire_next h⟩,
    step_request_taken h.handle Laws.RoundTrip.cancel (.inr rfl), fun w i hd hi => ⟨?held, fun hst => ?taken⟩⟩
  case taken => exact step_request_taken h.handle hd (.inl hst)
  case held =>
    rintro ⟨s', hx, hreq⟩
    by_contra hst
    cases (step_request_held hd hi hst).symm.trans hx
    exact List.cons_ne_self w s.req hreq

theorem not_unwritten_of_next {r : Result} (h : ∃ s', r = .next s') (f : BlockField) :
    r ≠ .fault (.unwritten f) := by
  obtain ⟨_, rfl⟩ := h
  nofun

theorem readDone_ok_not_unwritten {s : State} (h : BlockInv s) (hst : s.st = .reading) (bytes : List Byte)
    (f : BlockField) : consume (.readDone (.ok bytes)) s ≠ .fault (.unwritten f) := by
  by_cases hlen : bytes.length = 2
  · obtain ⟨b0, b1, rfl⟩ := List.length_eq_two.mp hlen
    exact not_unwritten_of_next (readDone_ok_next h hst b0 b1) f
  · have hx : consume (.readDone (.ok bytes)) s = _ := onReadDone_readLength hst hlen
    rw [hx]
    nofun

theorem takeRequest_handleInv {s : State} (i : Instr) (h : HandleInv s) : HandleInv (takeRequest i s) := by
  simpa [HandleInv] using h

theorem onHost_not_unwritten {s : State} (h : HandleInv s) (f : BlockField) :
    onHost s ≠ .fault (.unwritten f) := by
  unfold onHost
  split
  · nofun
  · split
    · next i hd => exact not_unwritten_of_next (command_next (takeRequest_handleInv i h) hd) f
    · nofun

/-- An event of the hardware has a step, or stops under another name than `unwritten`: where it is not enabled, by that
name. -/
theorem consume_not_unwritten {s : State} (h : BlockInv s) {e : Event} (he : e.hardware = true) (f : BlockField) :
    consume e s ≠ .fault (.unwritten f) := by
  cases e with
  | host => exact onHost_not_unwritten h.handle f
  | openDone r =>
    by_cases hst : s.st = .opening
    · exact not_unwritten_of_next (openDone_next hst r) f
    · simp [consume, onOpenDone, hst]
  | scanDone r =>
    by_cases hst : s.st = .scanning
    · exact not_unwritten_of_next (scanDone_next h hst r) f
    · simp [consume, onScanDone, hst]
  | writeDone r =>
    by_cases hst : s.st = .cfgWriting ∨ s.st = .selecting
    · exact not_unwritten_of_next (writeDone_next h hst r) f
    · obtain ⟨hcfg, hsel⟩ := not_or.mp hst
      simp [consume, onWriteDone, hcfg, hsel]
  | readDone r =>
    by_cases hst : s.st = .reading
    · cases r with
      | ok bytes => exact readDone_ok_not_unwritten h hst bytes f
      | err => exact not_unwritten_of_next (readDone_err_next hst) f
    · simp [consume, onReadDone, hst]
  | timerExpire =>
    by_cases hcp : s.convPending = true
    · exact not_unwritten_of_next (timerExpire_next h hcp) f
    · simp [consume, onTimerExpire, hcp]
  | reset => exact not_unwritten_of_next ⟨_, EventCase.reset.consume_eq⟩ f
  | conversionEnd =>
    simp only [consume, onConversionEnd]
    split <;> nofun
  | issue m => cases he

/-- The step of a state is the consumption of the event it is offered. -/
theorem step_of_sched {s : State} {e : Event} {rest : List Event} (hs : s.sched = e :: rest) :
    step s = consume e (s.setSched rest) := by
  simp only [step, hs]

/-- Settles O50: where an event of the hardware is enabled the invariants give it a step, and elsewhere it stops by
`notEnabled`, by the length of the answer or for want of a command. -/
theorem unwrittenFieldsAreNeverRead : Obligations.UnwrittenFieldsAreNeverRead := by
  intro s e rest f h hs he
  rw [step_of_sched hs]
  exact consume_not_unwritten (s := s.setSched rest) h he f

end Sys2Proof.Machine
end

section
/-! Proofs about every step: its outputs, and the transport operations among them (00_scope.md R15, R17, 10_state.md
R36, R40, 70_reset_and_hazards.md R350, R351). -/

namespace Sys2Proof.Machine

/-- Settles O51: the actions of a case are what it adds to the trace. -/
theorem stepsOnlyAddActions : Obligations.StepsOnlyAddActions := by
  intro s s' hx
  obtain ⟨_, _, outs, _, hc⟩ := step_cases hx
  exact ⟨outs, hc.trace⟩

/-- What a step can do on the event that it is offered. -/
theorem step_cases_of_sched {s s' : State} {e : Event} {rest : List Event} {outs : List Action}
    (hs : s.sched = e :: rest) (hx : step s = .next s') (hp : Puts s s' outs) :
    EventCase (s.setSched rest) e outs s' := by
  obtain ⟨_, _, hs', hc⟩ := step_cases_puts hx hp
  cases hs.symm.trans hs'
  exact hc

theorem decode_cmd_not_internal {w : Word16} {i : Instr} (hd : decode (.cmd w) = .ok i) : i.isInternal = false := by
  obtain ⟨_, _, rfl⟩ | ⟨_, _, rfl⟩ | rfl := decode_cmd_cases hd <;> rfl

/-- The table of the transport operations: the sequencer state and `conv_pending` before the step, the event that issues
the operation, and the two after the step. The last two rows are the micro-operations run alone (log entry 5). -/
inductive IssueCase : FsmState → Bool → Event → Action → FsmState → Bool → Prop where
  | openBus (bus : BusId) (cp cp' : Bool) : IssueCase .idle cp .host (.busOpen bus) .opening cp'
  | scanBus (h : BusHandle) (cp cp' : Bool) : IssueCase .opening cp (.openDone (.ok h)) (.busScan h) .scanning cp'
  | cfgAccepted (h : BusHandle) (a : DevAddr) (cfg : Word16) :
      IssueCase .idle false .host (.busWrite h a (cfgFrame cfg)) .cfgWriting false
  | cfgHeld (h : BusHandle) (a : DevAddr) (cfg : Word16) (cp : Bool) :
      IssueCase .hold cp .timerExpire (.busWrite h a (cfgFrame cfg)) .cfgWriting false
  | select (h : BusHandle) (a : DevAddr) (cp' : Bool) :
      IssueCase .converting true .timerExpire (.busWrite h a selectFrame) .selecting cp'
  | read (h : BusHandle) (a : DevAddr) (cp cp' : Bool) :
      IssueCase .selecting cp (.writeDone (.ok ())) (.busRead h a resultLength) .reading cp'
  | aloneCfg (m : InternalWord) (h : BusHandle) (a : DevAddr) (cfg : Word16) (st st' : FsmState) :
      IssueCase st false (.issue m) (.busWrite h a (cfgFrame cfg)) st' false
  | alone (m : InternalWord) (x : Action) (st st' : FsmState) (cp cp' : Bool) (hx : x.isCfgWrite = false) :
      IssueCase st cp (.issue m) x st' cp'

/-- `outs` is one transport operation by the table, or holds none. -/
abbrev IssuesByTable (s : State) (e : Event) (outs : List Action) (s' : State) : Prop :=
  (∃ x, outs = [x] ∧ IssueCase s.st s.convPending e x s'.st s'.convPending) ∨ ∀ x ∈ outs, x.onTransport = false

theorem ExecCase.issues_host {s s' : State} {i : Instr} {outs : List Action} (hi : i.isInternal = false)
    (hc : ExecCase s i outs s') : IssuesByTable s .host outs s' := by
  cases hc with
  | measureWrite c g h a hst _ hcp => exact .inl ⟨_, rfl, by rw [hst, hcp]; exact hcp ▸ .cfgAccepted h a _⟩
  | initOpen bus _ hst => exact .inl ⟨_, rfl, by rw [hst]; exact .openBus bus _ _⟩
  | measureHeld | measureNoHandle | measureHold | initHeld | cancelNothing | cancelNow | cancelLater =>
    exact .inr (by simp [Action.onTransport])
  | _ => cases hi

theorem ExecCase.issues_alone {s s' : State} {i : Instr} {outs : List Action} (m : InternalWord)
    (hi : i.isInternal = true) (hc : ExecCase s i outs s') : IssuesByTable s (.issue m) outs s' := by
  cases hc with
  | cfgWrite c g h a hcp =>
    exact .inl ⟨_, rfl, by rw [State.emit_convPending, hcp]; exact .aloneCfg m h a _ _ _⟩
  | ptrSelect | resultRead | busOpen | busScan => exact .inl ⟨_, rfl, .alone m _ _ _ _ _ rfl⟩
  | encode | decode | wait => exact .inr (by simp [Action.onTransport])
  | _ => cases hi

theorem EventCase.issues {s s' : State} {e : Event} {outs : List Action} (hc : EventCase s e outs s') :
    IssuesByTable s e outs s' := by
  cases hc with
  | host _ _ i _ _ _ hd hx => simpa [IssuesByTable] using hx.issues_host (decode_cmd_not_internal hd)
  | issue m _ _ _ hd hx => exact hx.issues_alone m (decode_internal_isInternal hd)
  | openOk h hst => exact .inl ⟨_, rfl, by rw [hst]; exact .scanBus h _ _⟩
  | selectOk h a hst => exact .inl ⟨_, rfl, by rw [hst]; exact .read h a _ _⟩
  | expireConverting h a hst hcp => exact .inl ⟨_, rfl, by rw [hst, hcp]; exact .select h a _⟩
  | expireHold c g h a hst => exact .inl ⟨_, rfl, by rw [hst]; exact .cfgHeld h a _ _⟩
  | _ => exact .inr (by simp [Action.onTransport])

/-- A transport operation that a step puts out stands in the table. -/
theorem EventCase.issueCase {s s' : State} {e : Event} {outs : List Action} (hc : EventCase s e outs s') {x : Action}
    (hm : x ∈ outs) (hx : x.onTransport = true) : IssueCase s.st s.convPending e x s'.st s'.convPending := by
  obtain ⟨y, rfl, hi⟩ | hnone := hc.issues
  · cases List.mem_singleton.mp hm
    exact hi
  · cases (hnone x hm).symm.trans hx

section table

variable {st st' : FsmState} {cp cp' : Bool} {e : Event} {x : Action}

theorem IssueCase.waitsIn (hi : IssueCase st cp e x st' cp') (he : e.hardware = true) : x.waitsIn = some st' := by
  cases hi with
  | cfgAccepted | cfgHeld => simp [Action.waitsIn, cfgFrame, selectFrame]
  | aloneCfg | alone => cases he
  | _ => rfl

theorem IssueCase.completes (hi : IssueCase st cp e x st' cp') (he : e.hardware = true)
    (hw : st.waitsForTransport = true) : e.completes st = true := by
  cases hi with
  | scanBus | read => rfl
  | aloneCfg | alone => cases he
  | _ => cases hw

theorem IssueCase.guardClear (hi : IssueCase st cp e x st' cp') (hx : x.isCfgWrite = true) :
    cp' = false ∧ (cp = false ∨ e = .timerExpire) := by
  cases hi with
  | cfgAccepted | aloneCfg => exact ⟨rfl, .inl rfl⟩
  | cfgHeld => exact ⟨rfl, .inr rfl⟩
  | alone _ _ _ _ _ _ h => cases h.symm.trans hx
  | _ => cases hx

theorem IssueCase.of_select (hi : IssueCase st cp e x st' cp') (he : e.hardware = true) {h : BusHandle} {a : DevAddr}
    (hx : x = .busWrite h a selectFrame) : st = .converting ∧ e = .timerExpire ∧ cp = true := by
  cases hi with
  | select => exact ⟨rfl, rfl, rfl⟩
  | cfgAccepted | cfgHeld => simp [cfgFrame, selectFrame] at hx
  | aloneCfg | alone => cases he
  | _ => cases hx

theorem IssueCase.of_read (hi : IssueCase st cp e x st' cp') (he : e.hardware = true) {h : BusHandle} {a : DevAddr}
    {n : Nat} (hx : x = .busRead h a n) : st = .selecting ∧ e = .writeDone (.ok ()) := by
  cases hi with
  | read => exact ⟨rfl, rfl⟩
  | aloneCfg | alone => cases he
  | _ => cases hx

end table

theorem Action.onTransport_of_isCfgWrite {x : Action} (hx : x.isCfgWrite = true) : x.onTransport = true := by
  cases x with
  | busWrite => rfl
  | _ => cases hx

/-- Settles O52, by the table of the transport operations. -/
theorem oneTransportOperationOutstanding : Obligations.OneTransportOperationOutstanding := by
  intro s s' e rest outs hs hx hp
  have hc := step_cases_of_sched hs hx hp
  refine ⟨?_, fun he x hm hxt => (hc.issueCase hm hxt).waitsIn he,
    fun he hw ⟨x, hm, hxt⟩ => (hc.issueCase hm hxt).completes he hw⟩
  obtain ⟨x, rfl, _⟩ | hnone := hc.issues
  · exact List.length_filter_le _ _
  · rw [List.filter_eq_nil_iff.mpr fun x hm => by simp [hnone x hm]]
    exact Nat.zero_le 1

/-- Settles O54, by the rows of the table that issue a configuration write. -/
theorem cfgWritesOnlyWithTheGuardClear : Obligations.CfgWritesOnlyWithTheGuardClear := by
  intro s s' outs hx hp x hm hxc
  obtain ⟨e, _, hs, hc⟩ := step_cases_puts hx hp
  obtain ⟨hcp', hcp⟩ := (hc.issueCase hm (Action.onTransport_of_isCfgWrite hxc)).guardClear hxc
  exact ⟨hcp', hcp.imp_right fun he => by rw [hs, he]; rfl⟩

/-- Settles O55, by the two rows of the table that belong to the result phase. -/
theorem resultPhaseOnlyAfterTheWait : Obligations.ResultPhaseOnlyAfterTheWait := by
  intro s s' e rest outs hs he hx hp
  have hc := step_cases_of_sched hs hx hp
  exact ⟨fun h a hm => (hc.issueCase hm rfl).of_select he rfl, fun h a n hm => (hc.issueCase hm rfl).of_read he rfl⟩

end Sys2Proof.Machine
end

section
/-! Proofs about the device: what the completions do to it, and that a conversion in flight is covered by the guard
timer (20_memory.md R87, 10_state.md R58, 70_reset_and_hazards.md R350). -/

namespace Sys2Proof.Machine

/-- Settles O29: the device after each case of the event. -/
theorem deviceEffects : Obligations.DeviceEffects := by
  intro s s'
  simp only [step_offer]
  refine ⟨fun c g hst hc hg hx => ?cfg, fun hst hx => ?select, fun b0 b1 hx => ?read, fun hx => ?expire,
    fun hp => ?ended⟩
  case cfg =>
    obtain ⟨_, hcase⟩ := consume_cases hx
    cases hcase with
    | cfgOk _ _ _ hc' hg' | cfgOkCancelled _ _ _ hc' hg' =>
      cases hc.symm.trans hc'
      cases hg.symm.trans hg'
      rfl
    | selectOk _ _ hst' | selectOkCancelled hst' => cases hst.symm.trans hst'
  case select =>
    obtain ⟨_, hcase⟩ := consume_cases hx
    cases hcase with
    | cfgOk _ _ hst' | cfgOkCancelled _ _ hst' => cases hst.symm.trans hst'
    | selectOk | selectOkCancelled => rfl
  case read =>
    obtain ⟨_, hcase⟩ := consume_cases hx
    cases hcase with
    | readOkWarn | readOk => exact deliverSample_dev _ s
    | readOkCancelled => rfl
  case expire =>
    obtain ⟨_, hcase⟩ := consume_cases hx
    cases hcase <;> rfl
  case ended => exact (EventCase.conversionEnd hp).consume_eq

theorem ExecCase.deviceCovered {s s' : State} {i : Instr} {outs : List Action} (hc : ExecCase s i outs s')
    (h : DeviceCovered s) : DeviceCovered s' := by
  cases hc <;> exact h

/-- Only a successful configuration write starts a conversion, and it arms the timer; only an expiry disarms it, and it
ends the conversion. -/
theorem EventCase.deviceCovered {s s' : State} {e : Event} {outs : List Action} (hc : EventCase s e outs s')
    (he : e.transportError = true → s.st = .cfgWriting) (h : DeviceCovered s) : DeviceCovered s' := by
  cases hc with
  | host _ _ i _ _ _ _ hx => exact hx.deviceCovered (by simpa [DeviceCovered] using h)
  | issue _ _ _ _ _ hx => exact hx.deviceCovered h
  | cfgOk | cfgOkCancelled | cfgErr | reset => exact fun _ => rfl
  | openErr hst | scanErr hst | selectErr hst | readErr hst => cases (he rfl).symm.trans hst
  | expireConverting | expireHold | expire | conversionEnd => exact nofun
  | readOkWarn | readOk => simpa [DeviceCovered] using h
  | _ => exact h

/-- Settles O56: a configuration write is issued with the timer not armed (O54), so with nothing in flight. -/
theorem conversionsInFlightAreGuarded : Obligations.ConversionsInFlightAreGuarded := by
  intro s s' e rest outs h hs he hx hp
  have hcov : DeviceCovered s' := (step_cases_of_sched hs hx hp).deviceCovered he h
  refine ⟨hcov, fun x hm hxc => Bool.eq_false_of_not_eq_true fun hpend => ?_⟩
  obtain ⟨hcp, _⟩ := cfgWritesOnlyWithTheGuardClear s s' outs hx hp x hm hxc
  cases hcp.symm.trans (hcov hpend)

end Sys2Proof.Machine
end

section
/-! Proofs about every step: who writes `hv` (10_state.md R39), who leaves CONVERTING (42_conversion_sequencer.md R184,
R187, R195), and the balance of requests and responses (10_state.md R32). -/

namespace Sys2Proof.Machine

/-- The event is a scan that reports the address to verify, and the handle is the one of the open before it. -/
def ScanReports (s : State) (e : Event) (s' : State) : Prop :=
  ∃ present a, e = .scanDone (.ok present) ∧ s.st = .scanning ∧ s.iaddr = some a ∧ a ∈ present ∧
    s'.haddr = some a ∧ s'.hbus = s.hbus

/-- The event is a reset, or the host's turn in IDLE with an INIT word presented. -/
def ResetOrInit (s : State) (e : Event) : Prop :=
  e = .reset ∨ (e = .host ∧ s.st = .idle ∧
    ∃ w bus addr, s.req.head? = some w ∧ decode (.cmd w) = .ok (.init bus addr))

theorem ExecCase.hv_cases {s s' : State} {i : Instr} {outs : List Action} (hc : ExecCase s i outs s') :
    s'.hv = s.hv ∨ (s'.hv = false ∧ s.st = .idle ∧ ∃ bus addr, i = .init bus addr) := by
  cases hc with
  | initOpen bus addr hst => exact .inr ⟨rfl, hst, bus, addr, rfl⟩
  | _ => exact .inl rfl

theorem EventCase.hv_cases {s s' : State} {e : Event} {outs : List Action} (hc : EventCase s e outs s') :
    s'.hv = s.hv ∨ (s'.hv = true ∧ ScanReports s e s') ∨ (s'.hv = false ∧ ResetOrInit s e) := by
  cases hc with
  | host w ws i _ _ hr hd hx =>
    obtain hsame | ⟨hhv, hst, bus, addr, rfl⟩ := hx.hv_cases
    · exact .inl (hsame.trans (takeRequest_hv i s))
    · rw [takeRequest_st] at hst
      exact .inr (.inr ⟨hhv, .inr ⟨rfl, hst, w, bus, addr, by rw [hr]; rfl, hd⟩⟩)
  | issue _ i _ _ hd hx =>
    obtain hsame | ⟨_, _, _, _, rfl⟩ := hx.hv_cases
    · exact .inl hsame
    · cases decode_internal_isInternal hd
  | scanFound a present hst hi hm => exact .inr (.inl ⟨rfl, present, a, rfl, hst, hi, hm, rfl, rfl⟩)
  | reset => exact .inr (.inr ⟨rfl, .inl rfl⟩)
  | readOkWarn | readOk => exact .inl (deliverSample_hv _ s)
  | _ => exact .inl rfl

/-- Settles O37: every case of a step keeps `hv`, sets it by a scan or clears it by INIT or a reset. -/
theorem handleValidChangesOnlyByInitAndReset : Obligations.HandleValidChangesOnlyByInitAndReset := by
  intro s s' e rest hs hx
  obtain ⟨_, hp⟩ := stepsOnlyAddActions s s' hx
  obtain hsame | ⟨hset, hscan⟩ | ⟨hclear, hreset⟩ := (step_cases_of_sched hs hx hp).hv_cases
  · have hsame : s'.hv = s.hv := hsame
    exact ⟨fun h h' => by simp [hsame, h] at h', fun h h' => by simp [hsame, h] at h'⟩
  · exact ⟨fun _ _ => hscan, fun _ h' => by cases (hset.symm.trans h')⟩
  · exact ⟨fun _ h' => (by cases hclear.symm.trans h'), fun _ _ => hreset⟩

/-- In CONVERTING a command is held, or it is CANCEL and ends the measurement. -/
theorem ExecCase.of_converting {s s' : State} {i : Instr} {outs : List Action} (hc : ExecCase s i outs s')
    (hst : s.st = .converting) (hi : i.isInternal = false) :
    (s'.st = .converting ∧ outs = []) ∨ (s'.st = .idle ∧ i = .cancel) := by
  cases hc with
  | measureHeld | initHeld => exact .inl ⟨hst, rfl⟩
  | cancelNow => exact .inr ⟨rfl, rfl⟩
  | measureNoHandle _ _ h | measureHold _ _ h | measureWrite _ _ _ _ h | initOpen _ _ h => cases hst.symm.trans h
  | cancelNothing h | cancelLater h => simp [hst] at h
  | _ => cases hi

/-- An operation run alone leaves the sequencer where it is. -/
theorem ExecCase.st_eq_of_internal {s s' : State} {i : Instr} {outs : List Action} (hc : ExecCase s i outs s')
    (hi : i.isInternal = true) : s'.st = s.st := by
  cases hc with
  | encode | decode | cfgWrite | wait | ptrSelect | resultRead | busOpen | busScan => rfl
  | _ => cases hi

/-- The events that end the wait of CONVERTING. -/
def EndsWait (s : State) (e : Event) : Prop :=
  e = .timerExpire ∨ e = .reset ∨ (e = .host ∧ s.req.head? = some cancelWord)

theorem EventCase.of_converting {s s' : State} {e : Event} {outs : List Action} (hc : EventCase s e outs s')
    (hst : s.st = .converting) :
    (s'.st = .converting ∧ (e.hardware = true → outs = [])) ∨ (s'.st ≠ .converting ∧ EndsWait s e) := by
  cases hc with
  | host w _ i _ _ hr hd hx =>
    obtain ⟨hst', hnil⟩ | ⟨hst', rfl⟩ :=
      hx.of_converting ((takeRequest_st i s).trans hst) (decode_cmd_not_internal hd)
    · exact .inl ⟨hst', fun _ => hnil⟩
    · refine .inr ⟨by simp [hst'], .inr (.inr ⟨rfl, ?_⟩)⟩
      rw [hr, decode_cmd_cancel hd]
      rfl
  | issue _ _ _ _ hd hx => exact .inl ⟨(hx.st_eq_of_internal (decode_internal_isInternal hd)).trans hst, nofun⟩
  | conversionEnd => exact .inl ⟨hst, fun _ => rfl⟩
  | expireConverting => exact .inr ⟨nofun, .inl rfl⟩
  | reset => exact .inr ⟨nofun, .inr (.inl rfl)⟩
  | openOk _ h | openErr h | scanFound _ _ h | scanAbsent _ _ h | scanErr h | cfgOk _ _ h | cfgOkCancelled _ _ h
  | cfgErr h | selectOk _ _ h | selectOkCancelled h | selectErr h | readOkWarn _ _ _ h | readOk _ _ _ h
  | readOkCancelled _ _ h | readErr h | expireHold _ _ _ _ h => cases hst.symm.trans h
  | expire h => simp [hst] at h

/-- Settles O18: in CONVERTING a case of the hardware stays there and puts nothing out, or is one of the three that end
the wait. -/
theorem convertingIsLeftOnlyByExpiryOrCancel : Obligations.ConvertingIsLeftOnlyByExpiryOrCancel := by
  intro s s' e rest hst hs hx
  obtain ⟨outs, hp⟩ := stepsOnlyAddActions s s' hx
  obtain ⟨hst', hnil⟩ | ⟨hst', hends⟩ := (step_cases_of_sched hs hx hp).of_converting hst
  · refine ⟨fun h => absurd hst' h, fun _ he => ?_⟩
    rw [hp, hnil he, List.append_nil]
  · exact ⟨fun _ => hends, fun h => absurd h hst'⟩

/-- How many responses there are among the actions. -/
def responses (outs : List Action) : Nat := (outs.filter Action.isResponse).length

theorem responses_nil : responses [] = 0 := rfl

theorem responses_cons (x : Action) (outs : List Action) :
    responses (x :: outs) = responses outs + (if x.isResponse = true then 1 else 0) := by
  cases hx : x.isResponse <;> simp [responses, hx]

/-- The responses owed in a state. -/
def State.owed (s : State) : Nat := if s.owesResponse = true then 1 else 0

/-- A command is accepted in IDLE; CANCEL is answered with the request that it cancels, and has no response of its
own. -/
theorem ExecCase.balance {s s' : State} {i : Instr} {outs : List Action} (hc : ExecCase s i outs s')
    (hi : i.isInternal = false) :
    responses outs + s'.owed = s.owed + (if s.st = .idle ∧ i ≠ .cancel then 1 else 0) := by
  cases hc with
  | measureHeld _ _ hst | initHeld _ _ hst => simp [hst, responses_nil]
  | measureNoHandle _ _ hst | measureHold _ _ hst | measureWrite _ _ _ _ hst | initOpen _ _ hst =>
    simp [hst, responses_nil, responses_cons, State.owed, State.owesResponse, Action.isResponse]
  | cancelNothing hst | cancelLater hst =>
    obtain hst | hst | hst := hst <;> simp [hst, responses_nil, State.owed, State.owesResponse]
  | cancelNow hst =>
    obtain hst | hst := hst <;>
      simp [hst, responses_nil, responses_cons, State.owed, State.owesResponse, Action.isResponse]
  | _ => cases hi

theorem acceptsRequest_host {s : State} {w : Word16} {ws : List Word16} {i : Instr} (hr : s.req = w :: ws)
    (hd : decode (.cmd w) = .ok i) : s.acceptsRequest .host = true ↔ s.st = .idle ∧ i ≠ .cancel := by
  simp [State.acceptsRequest, hr, hd]

theorem acceptsRequest_of_ne_host {s : State} {e : Event} (he : e ≠ .host) : s.acceptsRequest e = false := by
  simp [State.acceptsRequest, he]

/-- A completion or an expiry answers the request in progress and returns to IDLE, or does neither. -/
theorem EventCase.balance_of_ne_host {s s' : State} {e : Event} {outs : List Action} (hc : EventCase s e outs s')
    (hh : e ≠ .host) (he : e.hardware = true) (hr : e ≠ .reset) : responses outs + s'.owed = s.owed := by
  cases hc with
  | host => exact absurd rfl hh
  | issue => cases he
  | reset => exact absurd rfl hr
  | expire | conversionEnd => simp [responses_nil, State.owed, State.owesResponse]
  | openOk _ hst | openErr hst | scanFound _ _ hst | scanAbsent _ _ hst | scanErr hst | cfgOk _ _ hst
  | cfgOkCancelled _ _ hst | cfgErr hst | selectOk _ _ hst | selectOkCancelled hst | selectErr hst
  | readOkWarn _ _ _ hst | readOk _ _ _ hst | readOkCancelled _ _ hst | readErr hst
  | expireConverting _ _ hst | expireHold _ _ _ _ hst =>
    simp [hst, responses_nil, responses_cons, State.owed, State.owesResponse, Action.isResponse]

theorem EventCase.balance {s s' : State} {e : Event} {outs : List Action} (hc : EventCase s e outs s')
    (he : e.hardware = true) (hr : e ≠ .reset) :
    responses outs + s'.owed = s.owed + (if s.acceptsRequest e = true then 1 else 0) := by
  by_cases hh : e = .host
  · subst hh
    cases hc with
    | host _ _ _ _ _ hreq hd hx =>
      simpa [acceptsRequest_host hreq hd, State.owed, State.owesResponse] using hx.balance (decode_cmd_not_internal hd)
  · simpa [acceptsRequest_of_ne_host hh] using hc.balance_of_ne_host hh he hr

/-- Settles O57, by the cases of a step: each one that returns to IDLE answers once. -/
theorem oneResponsePerRequest : Obligations.OneResponsePerRequest := by
  intro s s' e rest outs hs he hr hx hp
  exact (step_cases_of_sched hs hx hp).balance he hr

end Sys2Proof.Machine
end

section
/-! Proofs about the step: it runs the decoded operation (00_scope.md R15, 10_state.md R31), one successful measurement
(42_conversion_sequencer.md R199), and the state after reset (70_reset_and_hazards.md R340, R344). -/

namespace Sys2Proof.Machine

/-- Settles O8: the host's turn takes the word off the port if it is accepted; an internal word has no port. -/
theorem stepRunsTheDecodedInstruction : Obligations.StepRunsTheDecodedInstruction := by
  refine ⟨fun s w ws rest i hs hr hd => ?_, fun s m rest i hs hd => ?_⟩
  · have hturn : step s = exec i (takeRequest i (s.setSched rest)) := by
      rw [step_of_sched hs]
      simp only [consume, onHost, State.setSched_req, hr, hd]
    rw [hturn]
    split
    · next h =>
      rw [takeRequest_accepted (by simpa using h), State.setSched_req, hr]
      rfl
    · next h =>
      obtain ⟨hst, hi⟩ := not_or.mp h
      rw [takeRequest_held (by simpa using hst) hi]
      rfl
  · rw [step_of_sched hs]
    simp only [consume, onIssue, hd]
    rfl

section run

open Host (Core)

variable {s s' : State} {rest : List Event} {r : Result}

theorem run_of_step {k : Nat} (hx : step s = .next s') (hr : Core.run Sys2Proof.core k s' = r) :
    Core.run Sys2Proof.core (k + 1) s = r := by
  have hx : Core.step Sys2Proof.core s = .next s' := hx
  rw [← hr]
  simp only [Core.run, hx]

/-- A run starts with the case of the event offered first. -/
theorem run_of_eventCase {e : Event} {outs : List Action} {k : Nat} (hs : s.sched = e :: rest)
    (hc : EventCase (s.setSched rest) e outs s') (hr : Core.run Sys2Proof.core k s' = r) :
    Core.run Sys2Proof.core (k + 1) s = r :=
  run_of_step ((step_of_sched hs).trans hc.consume_eq) hr

/-- The first event of a successful measurement: an accepted MEASURE with the timer not armed. -/
theorem run_measure {ws : List Word16} {c : Channel} {g : Gain} {h : BusHandle} {a : DevAddr} {k : Nat}
    (hs : s.sched = .host :: rest) (hw : s.req = measureWord c g :: ws) (hst : s.st = .idle) (hhv : s.hv = true)
    (hcp : s.convPending = false) (hh : s.hbus = some h) (ha : s.haddr = some a)
    (hr : Core.run Sys2Proof.core k
      (((((s.setSched rest).setReq ws).latch c g).emit (.busWrite h a (cfgFrame (configWord c g)))).setSt
        .cfgWriting) = r) : Core.run Sys2Proof.core (k + 1) s = r := by
  obtain ⟨hstep, _⟩ := stepRunsTheDecodedInstruction
  refine run_of_step ((hstep s _ ws rest _ hs hw (Laws.RoundTrip.measure c g)).trans ?_) hr
  rw [if_pos (.inl hst)]
  exact (ExecCase.measureWrite (s := (s.setSched rest).setReq ws) c g h a hst hhv hcp hh ha).exec_eq

/-- The last event of a successful measurement, whether or not it warns. -/
theorem run_readDone {b0 b1 : Byte} {g : Gain} (hs : s.sched = .readDone (.ok [b0, b1]) :: rest)
    (hst : s.st = .reading) (hxp : s.cancelPending = false) (hg : s.lg = some g)
    (hr : .next (deliverSample (decodeSample b0 b1 g) (s.setSched rest)) = r) :
    Core.run Sys2Proof.core 1 s = r := by
  cases hf : (decodeSample b0 b1 g).fs
  · exact run_of_eventCase hs (.readOk b0 b1 g hst hxp hg hf) hr
  · exact run_of_eventCase hs (.readOkWarn b0 b1 g hst hxp hg hf) hr

end run

/-- Settles O30: the five events are, in turn, the accepted MEASURE, the two writes with the expiry between them, and
the read that delivers the sample. -/
theorem successfulMeasurementTrace : Obligations.SuccessfulMeasurementTrace := by
  intro s c g h a b0 b1 ws rest hst hhv hcp hxp hh ha hr hs
  refine ⟨{ cfg := configWord c g, ptr := Config.regConversion, pending := false }, ?_⟩
  refine run_measure hs hr hst hhv hcp hh ha ?_
  refine run_of_eventCase rfl (.cfgOk c g rfl rfl rfl hxp) ?_
  refine run_of_eventCase rfl (.expireConverting h a rfl rfl hh ha) ?_
  refine run_of_eventCase rfl (.selectOk h a rfl hxp hh ha) ?_
  refine run_readDone rfl rfl hxp rfl ?_
  refine congrArg (β := Result) Host.Outcome.next (?_ : (_ : State) = _)
  rw [deliverSample_eq, cfgFrame_configWord, hst, hcp]
  simp [deviceConfigured, Config.convDelay, selectFrame, pointerByte, Config.regConversion, resultLength]

end Sys2Proof.Machine
end

section
/-! Proofs about the operations: what each puts out where it runs, and the faults on unwritten fields
(41_configuration_encoder.md R160, R167, R168, 42_conversion_sequencer.md R184, 10_state.md R44). -/

namespace Sys2Proof.Machine

/-- Settles O11: ENCODE has one case, without a guard, and its word is the disjunction of its parts (R160). -/
theorem encodeRuns : Obligations.EncodeRuns := by
  intro c g s
  rw [wordParts_eq_append c.mux g.controlBits]
  exact congrArg (fun w => Host.Outcome.next (s.emit (.encoded w))) (configWord_eq_cfgWord c g)

theorem configWord_injective {c c' : Channel} {g g' : Gain} (h : configWord c g = configWord c' g') :
    c = c' ∧ g = g' := by
  rw [configWord_eq_cfgWord, configWord_eq_cfgWord] at h
  refine ⟨Channel.mux_injective ?_, Gain.controlBits_injective ?_⟩
  · rw [← cfgWord_mux c g, h, cfgWord_mux]
  · rw [← cfgWord_controlBits c g, h, cfgWord_controlBits]

/-- Settles O13: the channel and the gain are fields of the word, and the table is evaluated. -/
theorem configurationWordTable : Obligations.ConfigurationWordTable :=
  ⟨configWord_eq_cfgWord, fun _ _ _ _ => configWord_injective, rfl⟩

/-- Settles O17: WAIT has one case, which keeps the state. -/
theorem waitChangesNothing : Obligations.WaitChangesNothing := fun _ hst => (ExecCase.wait hst).exec_eq

section unwritten

variable {s : State}

theorem writeToDevice_hbus_unwritten (bytes : List Byte) (hh : s.hbus = none) :
    writeToDevice bytes s = .fault (.unwritten .hbus) := by
  rw [writeToDevice, hh, withField_none]

theorem writeToDevice_haddr_unwritten (bytes : List Byte) {h : BusHandle} (hh : s.hbus = some h)
    (ha : s.haddr = none) : writeToDevice bytes s = .fault (.unwritten .haddr) := by
  rw [writeToDevice, hh, ha, withField_some, withField_none]

theorem readFromDevice_hbus_unwritten (n : Nat) (hh : s.hbus = none) :
    readFromDevice n s = .fault (.unwritten .hbus) := by
  rw [readFromDevice, hh, withField_none]

theorem readFromDevice_haddr_unwritten (n : Nat) {h : BusHandle} (hh : s.hbus = some h) (ha : s.haddr = none) :
    readFromDevice n s = .fault (.unwritten .haddr) := by
  rw [readFromDevice, hh, ha, withField_some, withField_none]

theorem execCfgWrite_of_precondition (c : Channel) (g : Gain) (hcp : s.convPending = false) (hhv : s.hv = true) :
    exec (.cfgWrite c g) s = writeToDevice (cfgFrame (configWord c g)) s :=
  if_pos ⟨hcp, hhv⟩

theorem execCfgWrite_precondition (c : Channel) (g : Gain) (h : s.convPending = true ∨ s.hv = false) :
    exec (.cfgWrite c g) s = .fault .cfgWritePrecondition :=
  if_neg fun ⟨hcp, hhv⟩ => by simp [hcp, hhv] at h

theorem execDecode_unwritten (b0 b1 : Byte) (hg : s.lg = none) :
    exec (.decode b0 b1) s = .fault (.unwritten .lg) := by
  rw [exec, execDecode, hg, withField_none]

end unwritten

/-- Settles O21: the accesses to the device read the handle and then the address, and CFG_WRITE checks its precondition
before both. -/
theorem operationsStopOnUnwrittenFields : Obligations.OperationsStopOnUnwrittenFields := by
  refine fun s => ⟨fun hh => ⟨writeToDevice_hbus_unwritten _ hh, readFromDevice_hbus_unwritten _ hh⟩,
    fun h hh ha => ⟨writeToDevice_haddr_unwritten _ hh ha, readFromDevice_haddr_unwritten _ hh ha⟩,
    fun c g hcp hhv hh => ?_, fun c g h hcp hhv hh ha => ?_, execCfgWrite_precondition, execDecode_unwritten⟩
  · rw [execCfgWrite_of_precondition c g hcp hhv, writeToDevice_hbus_unwritten _ hh]
  · rw [execCfgWrite_of_precondition c g hcp hhv, writeToDevice_haddr_unwritten _ hh ha]

/-- Settles O36: the fields by evaluation, and the MEASURE by its case without a handle. -/
theorem stateAfterReset : Obligations.StateAfterReset := by
  refine ⟨rfl, rfl, rfl, rfl, rfl, rfl, rfl, rfl, rfl, rfl, rfl, rfl, fun c g => ?_⟩
  rw [step_request_accepted (Laws.RoundTrip.measure c g) (.inl rfl), (ExecCase.measureNoHandle c g rfl rfl).exec_eq]
  rfl

/-- Settles O39: DECODE has one case, guarded by a latched gain. -/
theorem decodeRuns : Obligations.DecodeRuns := fun b0 b1 _ g hg => (ExecCase.decode b0 b1 g hg).exec_eq

end Sys2Proof.Machine
end

section
/-! Proofs about the Sample Decoder: the raw code and its sign (43_sample_decoder.md R231, R233, R237, R242). -/

namespace Sys2Proof.Machine

theorem signExtendRaw_eq (raw : BitVec 12) : signExtendRaw raw = raw.signExtend 16 :=
  BitVec.eq_of_toInt_eq (by rw [signExtendRaw_toInt, BitVec.toInt_signExtend_of_le (by decide)])

/-- Settles O40: the parts of `raw` add up, and `code` is its sign extension, which denotes the same integer. -/
theorem codeIsTheSignedSample : Obligations.CodeIsTheSignedSample := by
  intro b0 b1 g
  refine ⟨reassemble_toNat b0 b1, signExtendRaw_eq _, signExtendRaw_toInt _, le_decodeSample_code b0 b1 g,
    decodeSample_code_le b0 b1 g, ?_⟩
  rw [BitVec.msb_eq_decide, decide_eq_true_eq]
  exact Nat.lt_iff_add_one_le

/-- The low nibble is shifted out of `b1` (R231). -/
theorem reassemble_and_highNibble (b0 b1 : Byte) : reassemble b0 (b1 &&& 0xF0#8) = reassemble b0 b1 := by
  have h : (b1 &&& 0xF0#8) >>> 4 = b1 >>> 4 := by
    revert b1
    decide
  rw [reassemble, reassemble, h]

/-- Settles O45: DECODE reads its two bytes only through the raw code. -/
theorem lowNibbleIsIgnored : Obligations.LowNibbleIsIgnored := by
  intro b0 b1 g
  rw [decodeSample, decodeSample, reassemble_and_highNibble]

end Sys2Proof.Machine
end

section
/-! Proofs about binary64 arithmetic: rounding is to nearest, ties to even, so it keeps what is representable
(00_scope.md R14). -/

namespace Sys2Proof.Binary64

section roundQuotient

variable {N D : Nat}

/-- The quotient is rounded up exactly where the remainder asks for it. -/
theorem roundQuotient_mul_sub (N D : Nat) :
    (roundQuotient N D : ℤ) * D - N =
      if D < 2 * (N % D) ∨ (D = 2 * (N % D) ∧ N / D % 2 = 1) then (D : ℤ) - (N % D : Nat) else -(N % D : Nat) := by
  have hN : (D : ℤ) * (N / D : Nat) + (N % D : Nat) = N := by exact_mod_cast Nat.div_add_mod N D
  simp only [roundQuotient]
  split
  · push_cast at hN ⊢
    linarith
  · linarith

/-- A fraction is rounded by at most a half, and by a half only to an even number. -/
theorem two_mul_abs_roundQuotient_mul_sub_le (hD : 0 < D) :
    2 * |(roundQuotient N D : ℤ) * D - N| ≤ D ∧
      (2 * |(roundQuotient N D : ℤ) * D - N| = D → roundQuotient N D % 2 = 0) := by
  have hr : N % D < D := Nat.mod_lt N hD
  rw [roundQuotient_mul_sub]
  simp only [roundQuotient]
  split
  · rw [abs_of_nonneg (by omega)]
    omega
  · rw [abs_neg, Nat.abs_cast]
    omega

theorem abs_roundQuotient_sub (hD : 0 < D) :
    |(roundQuotient N D : ℚ) - N / D| ≤ 1 / 2 ∧
      (|(roundQuotient N D : ℚ) - N / D| = 1 / 2 → roundQuotient N D % 2 = 0) := by
  have hD₀ : (0 : ℚ) < D := by exact_mod_cast hD
  have hdist : |(roundQuotient N D : ℚ) - N / D| = (|(roundQuotient N D : ℤ) * D - N| : ℤ) / D := by
    push_cast
    rw [← abs_of_pos hD₀, ← abs_div, abs_of_pos hD₀, sub_div, mul_div_cancel_right₀ _ hD₀.ne']
  obtain ⟨hle, htie⟩ := two_mul_abs_roundQuotient_mul_sub_le (N := N) hD
  rw [hdist, div_le_iff₀ hD₀, div_eq_iff hD₀.ne']
  have hle : (2 : ℚ) * (|(roundQuotient N D : ℤ) * D - N| : ℤ) ≤ D := by exact_mod_cast hle
  refine ⟨by linarith, fun heq => htie ?_⟩
  have : (2 : ℚ) * (|(roundQuotient N D : ℤ) * D - N| : ℤ) = D := by linarith
  exact_mod_cast this

/-- No integer is nearer to the fraction, and another that is as near makes the result even. -/
theorem roundQuotient_nearest (hD : 0 < D) (n : ℤ) :
    |(roundQuotient N D : ℚ) - N / D| ≤ |(n : ℚ) - N / D| ∧
      (|(roundQuotient N D : ℚ) - N / D| = |(n : ℚ) - N / D| →
        n = roundQuotient N D ∨ roundQuotient N D % 2 = 0) := by
  obtain ⟨hle, htie⟩ := abs_roundQuotient_sub (N := N) hD
  obtain rfl | hne := eq_or_ne n (roundQuotient N D)
  · exact ⟨le_rfl, fun _ => .inl rfl⟩
  · have hone : (1 : ℚ) ≤ |(n : ℚ) - roundQuotient N D| := by exact_mod_cast Int.one_le_abs (sub_ne_zero.mpr hne)
    have htri : |(n : ℚ) - roundQuotient N D| ≤ |(n : ℚ) - N / D| + |(roundQuotient N D : ℚ) - N / D| := by
      rw [abs_sub_comm (roundQuotient N D : ℚ)]
      exact abs_sub_le _ _ _
    exact ⟨by linarith, fun heq => .inr (htie (by linarith))⟩

end roundQuotient

/-- A number that a binary64 value denotes, but for the greatest exponent. -/
def Representable (v : ℚ) : Prop := ∃ k q : ℤ, |k| < 2 ^ 53 ∧ minExp ≤ q ∧ v = k * 2 ^ q

theorem Representable.neg {v : ℚ} (h : Representable v) : Representable (-v) := by
  obtain ⟨k, q, hk, hq, rfl⟩ := h
  exact ⟨-k, q, by rwa [abs_neg], hq, by push_cast; ring⟩

/-- The factor of a sign bit. -/
def signum (neg : Bool) : ℚ := if neg then -1 else 1

theorem signum_mul_self (neg : Bool) : signum neg * signum neg = 1 := by cases neg <;> norm_num [signum]

theorem abs_signum_mul (neg : Bool) (v : ℚ) : |signum neg * v| = |v| := by cases neg <;> simp [signum]

theorem Representable.signum_mul {v : ℚ} (h : Representable v) (neg : Bool) : Representable (signum neg * v) := by
  cases neg
  · simpa [signum] using h
  · simpa [signum] using h.neg

theorem representable_value {y : Binary64} (h : y.canonical = true) : Representable y.value := by
  cases y with
  | finite neg sig E =>
    simp only [canonical, Bool.and_eq_true, decide_eq_true_eq] at h
    obtain ⟨⟨⟨hsig, hE⟩, _⟩, _⟩ := h
    have hmag : Representable (sig * 2 ^ E) := ⟨sig, E, by rw [Nat.abs_cast]; exact_mod_cast hsig, hE, by simp⟩
    simpa [value, signum, mul_assoc] using hmag.signum_mul neg
  | inf => cases h
  | nan => cases h

section round

variable {num den : Nat} {e : Int} {neg : Bool}

/-- The distance in units of `2^E`. -/
theorem abs_mul_zpow_sub (m x : ℚ) (E : Int) : |m * 2 ^ E - x| = |m - x / 2 ^ E| * 2 ^ E := by
  have hE : (0 : ℚ) < 2 ^ E := by positivity
  rw [← abs_of_pos hE, ← abs_mul, abs_of_pos hE, sub_mul, div_mul_cancel₀ _ hE.ne']

/-- No multiple of the unit in the last place is nearer to the exact magnitude. -/
theorem significand_nearest (hd : 0 < den) (n : ℤ) :
    |significand num den e * (2 : ℚ) ^ unitExp num den e - exactMagnitude num den e| ≤
        |n * (2 : ℚ) ^ unitExp num den e - exactMagnitude num den e| ∧
      (|significand num den e * (2 : ℚ) ^ unitExp num den e - exactMagnitude num den e| =
          |n * (2 : ℚ) ^ unitExp num den e - exactMagnitude num den e| →
        n = significand num den e ∨ significand num den e % 2 = 0) := by
  have hE : (0 : ℚ) < 2 ^ unitExp num den e := by positivity
  rw [abs_mul_zpow_sub, abs_mul_zpow_sub, mul_le_mul_iff_left₀ hE, mul_left_inj' hE.ne', ← scaledNum_div_scaledDen]
  exact roundQuotient_nearest (scaledDen_pos hd _ _) n

/-- A representable number with a finer unit is smaller than every number with 53 bits at this unit. -/
theorem abs_lt_of_finer {k q E : ℤ} (hk : |k| < 2 ^ 53) (hq : q < E) : |(k : ℚ) * 2 ^ q| < 2 ^ (E + 52) := by
  have hk : |(k : ℚ)| < 2 ^ 53 := by exact_mod_cast hk
  calc |(k : ℚ) * 2 ^ q|
    _ = |(k : ℚ)| * 2 ^ q := by rw [abs_mul, abs_of_pos (by positivity : (0 : ℚ) < 2 ^ q)]
    _ < 2 ^ 53 * 2 ^ q := by gcongr
    _ = 2 ^ (q + 53) := by rw [zpow_add₀ two_ne_zero, mul_comm]; norm_num
    _ ≤ 2 ^ (E + 52) := zpow_le_zpow_right₀ one_le_two (by omega)

/-- No representable number is nearer to the exact magnitude: it is a multiple of the unit in the last place, or its
unit is finer and it is below `2^52` of them. -/
theorem significand_nearest_representable (hn : 0 < num) (hd : 0 < den) {v : ℚ} (hv : Representable v) :
    |significand num den e * (2 : ℚ) ^ unitExp num den e - exactMagnitude num den e| ≤
        |v - exactMagnitude num den e| ∧
      (|significand num den e * (2 : ℚ) ^ unitExp num den e - exactMagnitude num den e| =
          |v - exactMagnitude num den e| →
        v = significand num den e * (2 : ℚ) ^ unitExp num den e ∨ significand num den e % 2 = 0) := by
  obtain ⟨k, q, hk, hq, rfl⟩ := hv
  obtain hle | hlt := le_or_gt (unitExp num den e) q
  · have hmult : (k : ℚ) * 2 ^ q = (k * 2 ^ (q - unitExp num den e).toNat : ℤ) * 2 ^ unitExp num den e := by
      push_cast
      rw [mul_assoc, ← zpow_natCast, ← zpow_add₀ two_ne_zero]
      congr 2
      omega
    rw [hmult]
    obtain ⟨hnear, htie⟩ := significand_nearest (num := num) (e := e) hd (k * 2 ^ (q - unitExp num den e).toNat)
    exact ⟨hnear, fun heq => (htie heq).imp_left fun h => by rw [h, Int.cast_natCast]⟩
  · have hx := le_exactMagnitude hn hd (hq.trans_lt hlt)
    have hpow : ((2 ^ 52 : ℤ) : ℚ) * 2 ^ unitExp num den e = 2 ^ (unitExp num den e + 52) := by
      rw [zpow_add₀ two_ne_zero, mul_comm]
      norm_num
    obtain ⟨hnear, _⟩ := significand_nearest (num := num) (e := e) hd (2 ^ 52)
    rw [hpow, abs_of_nonpos (sub_nonpos.mpr hx)] at hnear
    have hv : (k : ℚ) * 2 ^ q < 2 ^ (unitExp num den e + 52) := (le_abs_self _).trans_lt (abs_lt_of_finer hk hlt)
    rw [abs_of_neg (a := (k : ℚ) * 2 ^ q - _) (by linarith)]
    exact ⟨by linarith, fun heq => by linarith⟩

/-- The value of a finite `pack`, a carry out of 53 bits or none. -/
theorem value_pack {sig : Nat} {E : Int} (h : (pack neg sig E).isFinite = true) :
    (pack neg sig E).value = signum neg * (sig * 2 ^ E) := by
  rw [pack_of_isFinite h, value, packedExp, signum, mul_assoc]
  congr 1
  split
  · next hsig =>
    rw [hsig, zpow_add_one₀ two_ne_zero]
    push_cast
    ring
  · rfl

theorem pack_even {sig : Nat} {E : Int} (heven : sig % 2 = 0) (h : (pack neg sig E).isFinite = true) :
    ∃ sig' E', pack neg sig E = .finite neg sig' E' ∧ sig' % 2 = 0 := by
  refine ⟨_, _, pack_of_isFinite h, ?_⟩
  split
  · rfl
  · exact heven

theorem round_zero : round neg 0 den e = .finite neg 0 minExp := rfl

/-- The distance from the exact value is that of the magnitudes. -/
theorem abs_signum_mul_sub (neg : Bool) (a x : ℚ) : |signum neg * a - signum neg * x| = |a - x| := by
  rw [← mul_sub, abs_signum_mul]

/-- Rounding to nearest, ties to even. -/
theorem round_nearest (hd : 0 < den) (hfin : (round neg num den e).isFinite = true) {v : ℚ} (hv : Representable v) :
    |(round neg num den e).value - signum neg * exactMagnitude num den e| ≤
        |v - signum neg * exactMagnitude num den e| ∧
      (|(round neg num den e).value - signum neg * exactMagnitude num den e| =
          |v - signum neg * exactMagnitude num den e| →
        v = (round neg num den e).value ∨ ∃ sig E, round neg num den e = .finite neg sig E ∧ sig % 2 = 0) := by
  obtain rfl | hn := num.eq_zero_or_pos
  · simp [round_zero, value, exactMagnitude]
  · rw [round_eq_pack hn] at hfin ⊢
    obtain ⟨u, rfl⟩ : ∃ u, v = signum neg * u := ⟨signum neg * v, by rw [← mul_assoc, signum_mul_self, one_mul]⟩
    have hu : Representable u := by simpa [← mul_assoc, signum_mul_self] using hv.signum_mul neg
    rw [value_pack hfin, abs_signum_mul_sub, abs_signum_mul_sub]
    obtain ⟨hnear, htie⟩ := significand_nearest_representable (e := e) hn hd hu
    exact ⟨hnear, fun heq => (htie heq).imp (congrArg _) fun heven => pack_even heven hfin⟩

/-- What is representable is rounded to itself. -/
theorem value_round_of_representable (hd : 0 < den) (hfin : (round neg num den e).isFinite = true)
    (hx : Representable (signum neg * exactMagnitude num den e)) :
    (round neg num den e).value = signum neg * exactMagnitude num den e := by
  obtain ⟨hnear, _⟩ := round_nearest hd hfin hx
  rw [sub_self, abs_zero, abs_nonpos_iff] at hnear
  exact sub_eq_zero.mp hnear

theorem isFinite_of_ne_inf (h : round neg num den e ≠ .inf neg) : (round neg num den e).isFinite = true := by
  obtain rfl | hn := num.eq_zero_or_pos
  · rfl
  · rw [round_eq_pack hn, pack_eq] at h ⊢
    split at h
    · exact absurd rfl h
    · next hE => rw [if_neg hE]; rfl

/-- A finite rounding is in the form IEEE 754 holds it. -/
theorem canonical_round (hd : 0 < den) (hfin : (round neg num den e).isFinite = true) :
    (round neg num den e).canonical = true := by
  obtain rfl | hn := num.eq_zero_or_pos
  · rfl
  · rw [round_eq_pack hn] at hfin ⊢
    have hE := isFinite_pack.mp hfin
    have hle := significand_le (e := e) hn hd
    have hmin : minExp ≤ unitExp num den e := unitExp_eq (e := e) hn hd ▸ le_max_right _ _
    have hfull : unitExp num den e = minExp ∨ 2 ^ 52 ≤ significand num den e :=
      hmin.eq_or_lt.imp Eq.symm (le_significand hn hd)
    rw [pack_of_isFinite hfin]
    unfold packedExp at hE ⊢
    simp only [canonical, Bool.and_eq_true, Bool.or_eq_true, decide_eq_true_eq, beq_iff_eq]
    split at hE
    · next hcarry =>
      rw [if_pos hcarry, if_pos hcarry]
      omega
    · next hcarry =>
      rw [if_neg hcarry, if_neg hcarry]
      omega

end round

/-- Settles O42: the canonical values are representable, and rounding is to the nearest of those. -/
theorem roundingIsToNearest : Obligations.RoundingIsToNearest := by
  intro neg num den e hd hinf
  have hfin := isFinite_of_ne_inf hinf
  refine ⟨canonical_round hd hfin, fun y hy => ?_⟩
  have hnear := round_nearest hd hfin (representable_value hy)
  rw [exactMagnitude, ← mul_assoc] at hnear
  exact hnear

end Sys2Proof.Binary64
end

section
/-! Proofs about binary64 arithmetic: the error of a rounding, and the signs and values of the operations (00_scope.md
R14). -/

namespace Sys2Proof.Binary64

section round

variable {num den : Nat} {e : Int} {neg : Bool}

/-- Below `2^k` a rounding is off by at most half of the unit in the last place. -/
theorem abs_value_round_sub_le (hd : 0 < den) (hfin : (round neg num den e).isFinite = true) {k : Int}
    (hx : exactMagnitude num den e < 2 ^ k) (hk : minExp ≤ k - 53) :
    |(round neg num den e).value - signum neg * exactMagnitude num den e| ≤ 2 ^ (k - 54) := by
  obtain rfl | hn := num.eq_zero_or_pos
  · have hpow : (0 : ℚ) ≤ 2 ^ (k - 54) := by positivity
    simpa [round_zero, value, exactMagnitude] using hpow
  · have hlog := (Int.lt_zpow_iff_log_lt (b := 2) one_lt_two (exactMagnitude_pos hn hd)).mp hx
    have hE : unitExp num den e ≤ k - 53 := by
      rw [unitExp_eq hn hd]
      omega
    obtain ⟨hhalf, _⟩ := abs_roundQuotient_sub (N := scaledNum num e (unitExp num den e))
      (scaledDen_pos (e := e) (E := unitExp num den e) hd)
    rw [scaledNum_div_scaledDen] at hhalf
    rw [round_eq_pack hn] at hfin ⊢
    rw [value_pack hfin, abs_signum_mul_sub, abs_mul_zpow_sub]
    calc |(significand num den e : ℚ) - exactMagnitude num den e / 2 ^ unitExp num den e| * 2 ^ unitExp num den e
      _ ≤ 1 / 2 * 2 ^ (k - 53) := by
        gcongr
        · exact hhalf
        · exact one_le_two
      _ = 2 ^ (k - 54) := by
        rw [show k - 53 = k - 54 + 1 by ring, zpow_add_one₀ two_ne_zero]
        ring

theorem round_not (neg : Bool) (num den : Nat) (e : Int) : round (!neg) num den e = (round neg num den e).negate := by
  obtain rfl | hn := num.eq_zero_or_pos
  · rfl
  · rw [round_eq_pack hn, round_eq_pack hn, pack_eq, pack_eq]
    split <;> rfl

end round

section operations

variable {a b : Binary64}

theorem value_finite (n : Bool) (s : Nat) (E : Int) : (finite n s E).value = signum n * exactMagnitude s 1 E := by
  rw [value, signum, exactMagnitude, Nat.cast_one, div_one, mul_assoc]

theorem signum_xor (n m : Bool) : signum (n ^^ m) = signum n * signum m := by cases n <;> cases m <;> norm_num [signum]

theorem canonical_mul (h : (a.mul b).isFinite = true) : (a.mul b).canonical = true := by
  obtain ⟨ha, hb⟩ := isFinite_of_mul h
  obtain ⟨n, s, E, rfl⟩ := isFinite_iff.mp ha
  obtain ⟨m, s', E', rfl⟩ := isFinite_iff.mp hb
  exact canonical_round one_pos h

theorem canonical_div {n : Bool} {s : Nat} {E : Int} (hs : 0 < s) (h : (a.div (.finite n s E)).isFinite = true) :
    (a.div (.finite n s E)).canonical = true := by
  obtain ⟨m, s', E', rfl⟩ := isFinite_iff.mp (isFinite_of_div h)
  rw [div_finite hs] at h ⊢
  exact canonical_round hs h

/-- A product is the exact one, rounded once. -/
theorem abs_value_mul_sub_le (h : (a.mul b).isFinite = true) {k : Int} (hx : |a.value * b.value| < 2 ^ k)
    (hk : minExp ≤ k - 53) : |(a.mul b).value - a.value * b.value| ≤ 2 ^ (k - 54) := by
  obtain ⟨ha, hb⟩ := isFinite_of_mul h
  obtain ⟨n, s, E, rfl⟩ := isFinite_iff.mp ha
  obtain ⟨m, s', E', rfl⟩ := isFinite_iff.mp hb
  have hexact : (finite n s E).value * (finite m s' E').value =
      signum (n ^^ m) * exactMagnitude (s * s') 1 (E + E') := by
    rw [value_finite, value_finite, exactMagnitude_mul, signum_xor]
    ring
  rw [hexact, abs_signum_mul, abs_of_nonneg exactMagnitude_nonneg] at hx
  rw [hexact]
  exact abs_value_round_sub_le one_pos h hx hk

theorem exactMagnitude_natAbs (n : Int) : signum (decide (n < 0)) * exactMagnitude n.natAbs 1 0 = n := by
  have hmag : exactMagnitude n.natAbs 1 0 = |(n : ℚ)| := by
    rw [exactMagnitude, zpow_zero, mul_one, Nat.cast_one, div_one, Nat.cast_natAbs, Int.cast_abs]
  rw [hmag]
  obtain hneg | hpos := lt_or_ge n 0
  · rw [decide_eq_true hneg, abs_of_neg (by exact_mod_cast hneg), signum, if_pos rfl]
    ring
  · rw [decide_eq_false (not_lt.mpr hpos), abs_of_nonneg (by exact_mod_cast hpos), signum, if_neg nofun, one_mul]

/-- Integers of at most 53 bits are represented exactly. -/
theorem value_ofInt {n : Int} (h : |n| < 2 ^ 53) (hfin : (ofInt n).isFinite = true) : (ofInt n).value = n := by
  have hrep : Representable n := ⟨n, 0, h, by decide, by simp⟩
  rw [← exactMagnitude_natAbs n] at hrep
  exact (value_round_of_representable one_pos hfin hrep).trans (exactMagnitude_natAbs n)

theorem ofInt_neg {n : Int} (h : n ≠ 0) : ofInt (-n) = (ofInt n).negate := by
  have hsign : decide (-n < 0) = !decide (n < 0) := by
    rw [← decide_not, decide_eq_decide]
    omega
  rw [ofInt, ofInt, Int.natAbs_neg, hsign, round_not]

theorem mul_negate (a b : Binary64) : a.mul b.negate = (a.mul b).negate := by
  cases a with
  | finite n s E =>
    cases b with
    | finite m s' E' => simp only [negate, mul, Bool.xor_not, round_not]
    | inf m =>
      simp only [negate, mul, Bool.xor_not]
      split <;> rfl
    | nan => rfl
  | inf n =>
    cases b with
    | finite m s' E' =>
      simp only [negate, mul, Bool.xor_not]
      split <;> rfl
    | inf m => simp only [negate, mul, Bool.xor_not]
    | nan => rfl
  | nan => cases b <;> rfl

theorem negate_div (a b : Binary64) : a.negate.div b = (a.div b).negate := by
  cases a with
  | finite n s E =>
    cases b with
    | finite m s' E' =>
      simp only [negate, div, Bool.not_xor, round_not]
      split
      · split <;> rfl
      · rfl
    | inf m => simp only [negate, div, Bool.not_xor]
    | nan => rfl
  | inf n =>
    cases b with
    | finite m s' E' => simp only [negate, div, Bool.not_xor]
    | inf m => rfl
    | nan => rfl
  | nan => cases b <;> rfl

/-- The unit in the last place of a value that is not small stands far above the least exponent. -/
theorem exp_of_le_value {n : Bool} {s : Nat} {E : Int} (hc : (finite n s E).canonical = true)
    (hlo : 1 / 8 ≤ |(finite n s E).value|) : -56 < E := by
  simp only [canonical, Bool.and_eq_true, decide_eq_true_eq] at hc
  obtain ⟨⟨⟨hs, _⟩, _⟩, _⟩ := hc
  have hs : (s : ℚ) < 2 ^ 53 := by exact_mod_cast hs
  rw [abs_value_finite, exactMagnitude, Nat.cast_one, div_one] at hlo
  have hpow : (2 : ℚ) ^ (-3 : Int) < 2 ^ (53 + E) := by
    calc (2 : ℚ) ^ (-3 : Int)
      _ ≤ s * 2 ^ E := by norm_num at hlo ⊢; exact hlo
      _ < 2 ^ 53 * 2 ^ E := by gcongr
      _ = 2 ^ (53 + E) := by rw [zpow_add₀ two_ne_zero]; norm_num
  have := (zpow_lt_zpow_iff_right₀ (one_lt_two (α := ℚ))).mp hpow
  omega

theorem ofInt_2048 : ofInt 2048 = .finite false (2 ^ 52) (-41) := rfl

/-- A value that is zero or not small can be divided by 2048 exactly: only the exponent moves. -/
theorem representable_div_2048 (hc : a.canonical = true) (hlo : a.value = 0 ∨ 1 / 8 ≤ |a.value|) :
    Representable (a.value * 2 ^ (-11 : Int)) := by
  obtain hzero | hlo := hlo
  · exact ⟨0, minExp, by decide, le_rfl, by simp [hzero]⟩
  · cases a with
    | finite n s E =>
      have hE := exp_of_le_value hc hlo
      simp only [canonical, Bool.and_eq_true, decide_eq_true_eq] at hc
      obtain ⟨⟨⟨hs, _⟩, _⟩, _⟩ := hc
      have hmag : Representable (s * 2 ^ (E - 11)) :=
        ⟨s, E - 11, by rw [Nat.abs_cast]; exact_mod_cast hs, by unfold minExp; omega, by simp⟩
      rw [value_finite, exactMagnitude, Nat.cast_one, div_one, mul_assoc, mul_assoc, ← zpow_add₀ two_ne_zero]
      exact hmag.signum_mul n
    | inf => cases hc
    | nan => cases hc

theorem value_div_2048 (hc : a.canonical = true) (hlo : a.value = 0 ∨ 1 / 8 ≤ |a.value|)
    (hfin : (a.div (ofInt 2048)).isFinite = true) : (a.div (ofInt 2048)).value = a.value * 2 ^ (-11 : Int) := by
  have hrep := representable_div_2048 hc hlo
  obtain ⟨n, s, E, rfl⟩ := isFinite_iff.mp (isFinite_of_div hfin)
  have hexact : signum (n ^^ false) * exactMagnitude s (2 ^ 52) (E - -41) =
      (finite n s E).value * 2 ^ (-11 : Int) := by
    have hdivisor : exactMagnitude (2 ^ 52) 1 (-41) = 2 ^ (11 : Int) := by norm_num [exactMagnitude]
    rw [exactMagnitude_div, hdivisor, value_finite, Bool.xor_false, div_eq_mul_inv, ← zpow_neg, mul_assoc]
  rw [ofInt_2048, div_finite (Nat.two_pow_pos 52)] at hfin ⊢
  rw [← hexact] at hrep ⊢
  exact value_round_of_representable (Nat.two_pow_pos 52) hfin hrep

end operations

end Sys2Proof.Binary64
end

section
/-! Proofs about the Sample Decoder: the voltage is the rounded product scaled, and rises with the code
(43_sample_decoder.md R235, R238). -/

namespace Sys2Proof

theorem Gain.fullScale_bounds (g : Gain) : 250 ≤ g.fullScaleMillivolts ∧ g.fullScaleMillivolts ≤ 8000 := by
  cases g <;> decide

theorem Gain.lsbMicrovolts_pos (g : Gain) : 0 < g.lsbMicrovolts := by cases g <;> decide

end Sys2Proof

namespace Sys2Proof.Machine

open Binary64

/-- `f64(FS[g]) ×f f64(s)`, which R235 divides by 2048. -/
def rawProduct (g : Gain) (s : Int) : Binary64 := (fullScaleVolts g).mul (ofInt s)

theorem scaleVolts_eq (g : Gain) (s : Int) : scaleVolts g s = (rawProduct g s).div (ofInt 2048) := rfl

section codes

variable (g : Gain) {s t : Int}

theorem rawProduct_isFinite (h : s.natAbs ≤ 2048) : (rawProduct g s).isFinite = true :=
  isFinite_of_div (scaleVolts_isFinite g h)

theorem fullScaleVolts_isFinite : (fullScaleVolts g).isFinite = true := by
  obtain ⟨hfs, _⟩ := isFinite_of_mul (rawProduct_isFinite g (s := 0) (by decide))
  exact hfs

theorem value_ofInt_code (h : s.natAbs ≤ 2048) : (ofInt s).value = s := by
  obtain ⟨_, hint⟩ := isFinite_of_mul (rawProduct_isFinite .one h)
  exact value_ofInt (by rw [Int.abs_eq_natAbs]; omega) hint

/-- The full scale is 0.256 V to 6.144 V, but for the error of one rounding. -/
theorem fullScaleVolts_bounds : 1 / 5 ≤ (fullScaleVolts g).value ∧ (fullScaleVolts g).value ≤ 9 := by
  obtain ⟨hlo, hhi⟩ := g.fullScale_bounds
  have hlo : (250 : ℚ) ≤ g.fullScaleMillivolts := by exact_mod_cast hlo
  have hhi : (g.fullScaleMillivolts : ℚ) ≤ 8000 := by exact_mod_cast hhi
  have hexact : exactMagnitude g.fullScaleMillivolts 1000 0 = g.fullScaleMillivolts / 1000 := by
    norm_num [exactMagnitude]
  have herr : |(fullScaleVolts g).value - signum false * exactMagnitude g.fullScaleMillivolts 1000 0| ≤
      2 ^ ((4 : Int) - 54) :=
    abs_value_round_sub_le (by decide) (fullScaleVolts_isFinite g) (by rw [hexact]; norm_num; linarith) (by decide)
  rw [hexact, signum, if_neg nofun, abs_le] at herr
  obtain ⟨hlow, hhigh⟩ := herr
  norm_num at hlow hhigh
  constructor <;> linarith

/-- The rounded product is off by at most `2^-39` volts. -/
theorem abs_rawProduct_sub_le (h : s.natAbs ≤ 2048) :
    |(rawProduct g s).value - (fullScaleVolts g).value * s| ≤ 2 ^ (-39 : Int) := by
  obtain ⟨hlo, hhi⟩ := fullScaleVolts_bounds g
  have hs : |(s : ℚ)| ≤ 2048 := by rw [← Int.cast_abs, Int.abs_eq_natAbs]; exact_mod_cast h
  have hx : |(fullScaleVolts g).value * (ofInt s).value| < 2 ^ (15 : Int) := by
    rw [value_ofInt_code h, abs_mul, abs_of_pos (by linarith)]
    calc (fullScaleVolts g).value * |(s : ℚ)|
      _ ≤ 9 * 2048 := by gcongr
      _ < 2 ^ (15 : Int) := by norm_num
  have herr := abs_value_mul_sub_le (rawProduct_isFinite g h) hx (by decide)
  rwa [value_ofInt_code h] at herr

theorem rawProduct_zero : rawProduct g 0 = .finite false 0 minExp := by
  obtain ⟨sig, E, hfs⟩ : HasSign false (fullScaleVolts g) := round_hasSign (fullScaleVolts_isFinite g)
  have hzero : (finite false sig E).mul (ofInt 0) = round false (sig * 0) 1 (E + minExp) := rfl
  rw [rawProduct, hfs, hzero, Nat.mul_zero, round_zero]

/-- Two codes are at least a fifth of a volt apart before the division, and the roundings do not close that. -/
theorem rawProduct_lt (hlo : -2048 ≤ s) (hst : s < t) (hhi : t ≤ 2048) :
    (rawProduct g s).value < (rawProduct g t).value := by
  obtain ⟨hfs, _⟩ := fullScaleVolts_bounds g
  have hs := (abs_le.mp (abs_rawProduct_sub_le g (s := s) (by omega))).2
  have ht := (abs_le.mp (abs_rawProduct_sub_le g (s := t) (by omega))).1
  have hone : (s : ℚ) + 1 ≤ t := by exact_mod_cast hst
  norm_num at hs ht
  nlinarith

/-- The product is zero for the code 0, and not small for any other. -/
theorem rawProduct_eq_zero_or_le (h : s.natAbs ≤ 2048) :
    (rawProduct g s).value = 0 ∨ 1 / 8 ≤ |(rawProduct g s).value| := by
  obtain rfl | hne := eq_or_ne s 0
  · exact .inl (by simp [rawProduct_zero, value])
  · obtain ⟨hfs, _⟩ := fullScaleVolts_bounds g
    have hone : (1 : ℚ) ≤ |(s : ℚ)| := by exact_mod_cast Int.one_le_abs hne
    have hexact : (fullScaleVolts g).value ≤ |(fullScaleVolts g).value * s| := by
      rw [abs_mul, abs_of_pos (by linarith)]
      nlinarith
    have hsmall : (2 : ℚ) ^ (-39 : Int) ≤ 1 / 40 := by norm_num
    have herr : |(fullScaleVolts g).value * s| - |(rawProduct g s).value| ≤ 1 / 40 :=
      calc |(fullScaleVolts g).value * s| - |(rawProduct g s).value|
        _ ≤ |(fullScaleVolts g).value * s - (rawProduct g s).value| := abs_sub_abs_le_abs_sub _ _
        _ = |(rawProduct g s).value - (fullScaleVolts g).value * s| := abs_sub_comm _ _
        _ ≤ 1 / 40 := (abs_rawProduct_sub_le g h).trans hsmall
    exact .inr (by linarith)

/-- The voltage is the product divided by 2048 exactly (R235). -/
theorem value_scaleVolts (h : s.natAbs ≤ 2048) : (scaleVolts g s).value = (rawProduct g s).value * 2 ^ (-11 : Int) :=
  value_div_2048 (canonical_mul (rawProduct_isFinite g h)) (rawProduct_eq_zero_or_le g h) (scaleVolts_isFinite g h)

theorem scaleVolts_lt (hlo : -2048 ≤ s) (hst : s < t) (hhi : t ≤ 2048) :
    (scaleVolts g s).value < (scaleVolts g t).value := by
  rw [value_scaleVolts g (by omega), value_scaleVolts g (by omega)]
  have := rawProduct_lt g hlo hst hhi
  gcongr

theorem scaleMicrovolts_lt (hlo : -2048 ≤ s) (hst : s < t) (hhi : t ≤ 2048) :
    (scaleMicrovolts g s).toInt < (scaleMicrovolts g t).toInt := by
  rw [scaleMicrovolts_toInt g hlo (by omega), scaleMicrovolts_toInt g (by omega) hhi]
  exact Int.mul_lt_mul_of_pos_right hst (by exact_mod_cast g.lsbMicrovolts_pos)

/-- The sign bit goes through both operations. -/
theorem scaleVolts_opposite (h : s ≠ 0) : scaleVolts g (-s) = (scaleVolts g s).negate := by
  rw [scaleVolts, ofInt_neg h, mul_negate, negate_div]
  rfl

theorem scaleVolts_zero : scaleVolts g 0 = .finite false 0 (-1074) := by
  rw [scaleVolts_eq, rawProduct_zero]
  rfl

theorem scaleVolts_least : scaleVolts g (-2048) = (fullScaleVolts g).negate := by cases g <;> rfl

theorem scaleMicrovolts_least : (scaleMicrovolts g (-2048)).toInt = -((g.fullScaleMillivolts : Int) * 1000) := by
  have hfs : (g.lsbMicrovolts : Int) * 2048 = g.fullScaleMillivolts * 1000 := by exact_mod_cast g.lsbMicrovolts_mul
  rw [scaleMicrovolts_toInt g le_rfl (by decide), ← hfs]
  ring

theorem decodeSample_volts_nonneg_iff (b0 b1 : Byte) :
    0 ≤ (decodeSample b0 b1 g).volts.value ↔ (decodeSample b0 b1 g).raw.msb = false := by
  have hlo := le_decodeSample_code b0 b1 g
  have hhi := decodeSample_code_le b0 b1 g
  have hmsb : (decodeSample b0 b1 g).raw.msb = decide ((decodeSample b0 b1 g).code.toInt < 0) := by
    rw [BitVec.msb_eq_toInt, decodeSample_code_toInt]
    rfl
  rw [hmsb, decide_eq_false_iff_not, decodeSample_volts]
  exact ⟨fun hnn hneg => absurd (scaleVolts_neg g hneg hlo) (not_lt.mpr hnn),
    fun hnn => scaleVolts_nonneg g (not_lt.mp hnn) (hhi.trans (by decide))⟩

end codes

/-- Settles O43: the product is a finite rounding, and dividing it by 2048 moves its exponent only. -/
theorem voltsAreTheRoundedProductScaled : Obligations.VoltsAreTheRoundedProductScaled := by
  intro b0 b1 g
  have hcode : (decodeSample b0 b1 g).code.toInt.natAbs ≤ 2048 := by
    have hlo := le_decodeSample_code b0 b1 g
    have hhi := decodeSample_code_le b0 b1 g
    omega
  exact ⟨canonical_mul (rawProduct_isFinite g hcode),
    canonical_div (Nat.two_pow_pos 52) (scaleVolts_isFinite g hcode), value_scaleVolts g hcode⟩

/-- Settles O44: the order by the distance between two products, the signs by those of the operations, and the
microvolts by their exact product. -/
theorem orderAndSymmetryOfTheVoltage : Obligations.OrderAndSymmetryOfTheVoltage := by
  refine ⟨fun _ _ _ => ⟨rfl, rfl⟩,
    fun g s t hlo hst hhi => ⟨scaleVolts_lt g hlo hst (by omega), scaleMicrovolts_lt g hlo hst (by omega)⟩,
    fun b0 b1 g => decodeSample_volts_nonneg_iff g b0 b1, fun g s h => scaleVolts_opposite g h, fun g s hlo hhi => ?_,
    fun g => ⟨scaleVolts_zero g, ?_⟩, fun g => ⟨scaleVolts_least g, scaleMicrovolts_least g⟩⟩
  · rw [scaleMicrovolts_toInt g (by omega) (by omega), scaleMicrovolts_toInt g hlo hhi, neg_mul]
  · rw [scaleMicrovolts_toInt g (by decide) (by decide), zero_mul]

end Sys2Proof.Machine
end
